-- ==== Sys2Proof/Word.lean ====
section
/-! DEFINITION. The word types of the machine (spec 00_scope.md R7, R10: every value is unsigned). -/

namespace Sys2Proof

/-- `u8`: a register, a timer, a byte of memory. -/
abbrev Byte := BitVec 8

/-- `u16`: an instruction word, Index, the program counter, a return address. -/
abbrev Word := BitVec 16

/-- A 12-bit address field `nnn` (spec 30_encoding.md R81). -/
abbrev Addr12 := BitVec 12

/-- One framebuffer row of 64 pixels, column 0 at bit 63 (spec 10_state.md R31). -/
abbrev FbRow := BitVec 64

/-- The number of a general register V0..VF (spec 10_state.md R20). -/
abbrev Reg := Fin 16

/-- The number of a logical key (spec 00_scope.md R7). -/
abbrev Key := Fin 16

/-- The register that doubles as the flag (spec 10_state.md R21). -/
abbrev VF : Reg := 15

end Sys2Proof
end

