-- ==== Sys2Proof/Syntax.lean ====
section
/-! DEFINITION. The 34 instructions, one constructor per row of spec/opcode_table.json, in the table's order
(spec 30_encoding.md R91). Field names are the spec's `x`, `y`, `n`, `nn`, `nnn` (R81). -/

namespace Sys2Proof

inductive Instr where
  /-- 00E0 (R186). -/
  | clearScreen
  /-- 00EE (R120). -/
  | ret
  /-- 1NNN (R121). -/
  | jump (nnn : Addr12)
  /-- 2NNN (R122). -/
  | call (nnn : Addr12)
  /-- 3XNN (R123). -/
  | skipEqImm (x : Reg) (nn : Byte)
  /-- 4XNN (R124). -/
  | skipNeImm (x : Reg) (nn : Byte)
  /-- 5XY0 (R125). -/
  | skipEqReg (x y : Reg)
  /-- 6XNN (R141). -/
  | loadImm (x : Reg) (nn : Byte)
  /-- 7XNN (R142). -/
  | addImm (x : Reg) (nn : Byte)
  /-- 8XY0 (R143). -/
  | copyReg (x y : Reg)
  /-- 8XY1 (R144). -/
  | orReg (x y : Reg)
  /-- 8XY2 (R145). -/
  | andReg (x y : Reg)
  /-- 8XY3 (R146). -/
  | xorReg (x y : Reg)
  /-- 8XY4 (R147). -/
  | addReg (x y : Reg)
  /-- 8XY5 (R148). -/
  | subReg (x y : Reg)
  /-- 8XY6 (R149). -/
  | shiftRight (x y : Reg)
  /-- 8XY7 (R150). -/
  | revSubReg (x y : Reg)
  /-- 8XYE (R151). -/
  | shiftLeft (x y : Reg)
  /-- 9XY0 (R126). -/
  | skipNeReg (x y : Reg)
  /-- ANNN (R160). -/
  | loadIndex (nnn : Addr12)
  /-- BNNN (R127). The table gives this row two overlapping fields: `nnn`, and `x`, its top four bits;
  `Instr.wf` asks that they agree (log entry 10). -/
  | jumpOffset (x : Reg) (nnn : Addr12)
  /-- CXNN (R152). -/
  | random (x : Reg) (nn : Byte)
  /-- DXYN (R187); `n` is the number of sprite rows, 0..15. -/
  | draw (x y : Reg) (n : Fin 16)
  /-- EX9E (R208). -/
  | skipKeyHeld (x : Reg)
  /-- EXA1 (R209). -/
  | skipKeyNotHeld (x : Reg)
  /-- FX07 (R202). -/
  | readDelay (x : Reg)
  /-- FX0A (R210). -/
  | waitKey (x : Reg)
  /-- FX15 (R203). -/
  | setDelay (x : Reg)
  /-- FX18 (R204). -/
  | setSound (x : Reg)
  /-- FX1E (R161). -/
  | addIndex (x : Reg)
  /-- FX29 (R162). -/
  | glyphAddr (x : Reg)
  /-- FX33 (R163). -/
  | storeDecimal (x : Reg)
  /-- FX55 (R164). -/
  | storeRegs (x : Reg)
  /-- FX65 (R165). -/
  | loadRegs (x : Reg)
  deriving DecidableEq, Repr

end Sys2Proof
end

