-- ==== Sys2Proof/WellFormed.lean ====
section
/-! DEFINITION. Which instruction terms stand for a word. Register numbers, the row count and the immediates are
bounded by their types; the one relation between fields is BNNN's. -/

namespace Sys2Proof

/-- The top four bits of a 12-bit field: BNNN's `x = nnn[11:8]` (spec 41_flow_stack.md R127). -/
def topNibble (nnn : Addr12) : Reg := (nnn.extractLsb' 8 4).toFin

/-- Every field holds a value the encoding can carry, and BNNN's two overlapping fields agree
(spec 30_encoding.md R81, R83). -/
def Instr.wf : Instr → Bool
  | .jumpOffset x nnn => x == topNibble nnn
  | _ => true

end Sys2Proof
end

