-- ==== Sys2Proof/Decode.lean ====
section
/-! DEFINITION. From instruction words to instructions, and back (spec 30_encoding.md). The decoder is the two-level
dispatch of R85-R90; the encoder is written from the format patterns of R83; `opcodeRows` is the match/mask table of
R91, kept beside them so that the three can be compared. -/

namespace Sys2Proof

/-! ### Fields (R81) -/

def fieldI (w : Word) : BitVec 4 := w.extractLsb' 12 4
def fieldX (w : Word) : Reg := (w.extractLsb' 8 4).toFin
def fieldY (w : Word) : Reg := (w.extractLsb' 4 4).toFin
def fieldN (w : Word) : BitVec 4 := w.extractLsb' 0 4
def fieldNN (w : Word) : Byte := w.extractLsb' 0 8
def fieldNNN (w : Word) : Addr12 := w.extractLsb' 0 12

/-! ### Decoding -/

/-- Why bytes are no instruction: the family whose second level has no such case, or too few bytes. -/
inductive DecodeReject where
  /-- Family 0x0, `nnn` neither 0x0E0 nor 0x0EE (R86). -/
  | family0
  /-- Family 0x5, `n` not 0 (R90). -/
  | family5
  /-- Family 0x8, `n` in 0x8..0xD or 0xF (R87). -/
  | family8
  /-- Family 0x9, `n` not 0 (R90). -/
  | family9
  /-- Family 0xE, `nn` neither 0x9E nor 0xA1 (R88). -/
  | familyE
  /-- Family 0xF, `nn` not one of the nine of R89. -/
  | familyF
  /-- Fewer than two bytes (R80). -/
  | truncated
  deriving DecidableEq, Repr

/-- Family 0x0 (R86). -/
def decode0 (w : Word) : Except DecodeReject Instr :=
  match fieldNNN w with
  | 0x0E0 => .ok .clearScreen
  | 0x0EE => .ok .ret
  | _ => .error .family0

/-- Family 0x5 (R90). -/
def decode5 (w : Word) : Except DecodeReject Instr :=
  match fieldN w with
  | 0x0 => .ok (.skipEqReg (fieldX w) (fieldY w))
  | _ => .error .family5

/-- Family 0x8 (R87). -/
def decode8 (w : Word) : Except DecodeReject Instr :=
  match fieldN w with
  | 0x0 => .ok (.copyReg (fieldX w) (fieldY w))
  | 0x1 => .ok (.orReg (fieldX w) (fieldY w))
  | 0x2 => .ok (.andReg (fieldX w) (fieldY w))
  | 0x3 => .ok (.xorReg (fieldX w) (fieldY w))
  | 0x4 => .ok (.addReg (fieldX w) (fieldY w))
  | 0x5 => .ok (.subReg (fieldX w) (fieldY w))
  | 0x6 => .ok (.shiftRight (fieldX w) (fieldY w))
  | 0x7 => .ok (.revSubReg (fieldX w) (fieldY w))
  | 0xE => .ok (.shiftLeft (fieldX w) (fieldY w))
  | _ => .error .family8

/-- Family 0x9 (R90). -/
def decode9 (w : Word) : Except DecodeReject Instr :=
  match fieldN w with
  | 0x0 => .ok (.skipNeReg (fieldX w) (fieldY w))
  | _ => .error .family9

/-- Family 0xE (R88). -/
def decodeE (w : Word) : Except DecodeReject Instr :=
  match fieldNN w with
  | 0x9E => .ok (.skipKeyHeld (fieldX w))
  | 0xA1 => .ok (.skipKeyNotHeld (fieldX w))
  | _ => .error .familyE

/-- Family 0xF (R89). -/
def decodeF (w : Word) : Except DecodeReject Instr :=
  match fieldNN w with
  | 0x07 => .ok (.readDelay (fieldX w))
  | 0x0A => .ok (.waitKey (fieldX w))
  | 0x15 => .ok (.setDelay (fieldX w))
  | 0x18 => .ok (.setSound (fieldX w))
  | 0x1E => .ok (.addIndex (fieldX w))
  | 0x29 => .ok (.glyphAddr (fieldX w))
  | 0x33 => .ok (.storeDecimal (fieldX w))
  | 0x55 => .ok (.storeRegs (fieldX w))
  | 0x65 => .ok (.loadRegs (fieldX w))
  | _ => .error .familyF

/-- The instruction a word is, or the family that rejects it (R85); the last arm is family 0xF. -/
def decode (w : Word) : Except DecodeReject Instr :=
  match fieldI w with
  | 0x0 => decode0 w
  | 0x1 => .ok (.jump (fieldNNN w))
  | 0x2 => .ok (.call (fieldNNN w))
  | 0x3 => .ok (.skipEqImm (fieldX w) (fieldNN w))
  | 0x4 => .ok (.skipNeImm (fieldX w) (fieldNN w))
  | 0x5 => decode5 w
  | 0x6 => .ok (.loadImm (fieldX w) (fieldNN w))
  | 0x7 => .ok (.addImm (fieldX w) (fieldNN w))
  | 0x8 => decode8 w
  | 0x9 => decode9 w
  | 0xA => .ok (.loadIndex (fieldNNN w))
  | 0xB => .ok (.jumpOffset (fieldX w) (fieldNNN w))
  | 0xC => .ok (.random (fieldX w) (fieldNN w))
  | 0xD => .ok (.draw (fieldX w) (fieldY w) (fieldN w).toFin)
  | 0xE => decodeE w
  | _ => decodeF w

/-- The big-endian word of two bytes, the one at the lower address first (R80). -/
def wordOfBytes (hi lo : Byte) : Word := hi ++ lo

/-- The two bytes of a word as memory holds them (R80). -/
def bytesOfWord (w : Word) : List Byte := [w.extractLsb' 8 8, w.extractLsb' 0 8]

/-- The first instruction of a list of bytes, and the bytes after it. -/
def decodeBytes : List Byte → Except DecodeReject (Instr × List Byte)
  | hi :: lo :: rest => (decode (wordOfBytes hi lo)).map (·, rest)
  | _ => .error .truncated

/-! ### Encoding (R83) -/

/-- Format NNN. -/
def formNNN (i : BitVec 4) (nnn : Addr12) : Word := i ++ nnn

/-- Format XNN; format X when `nn` is fixed. -/
def formXNN (i : BitVec 4) (x : Reg) (nn : Byte) : Word := i ++ BitVec.ofFin (w := 4) x ++ nn

/-- Format XYN; format XY when `n` is fixed. -/
def formXYN (i : BitVec 4) (x y : Reg) (n : BitVec 4) : Word :=
  i ++ BitVec.ofFin (w := 4) x ++ BitVec.ofFin (w := 4) y ++ n

/-- The word of an instruction. -/
def encode : Instr → Word
  | .clearScreen => formNNN 0x0 0x0E0
  | .ret => formNNN 0x0 0x0EE
  | .jump nnn => formNNN 0x1 nnn
  | .call nnn => formNNN 0x2 nnn
  | .skipEqImm x nn => formXNN 0x3 x nn
  | .skipNeImm x nn => formXNN 0x4 x nn
  | .skipEqReg x y => formXYN 0x5 x y 0x0
  | .loadImm x nn => formXNN 0x6 x nn
  | .addImm x nn => formXNN 0x7 x nn
  | .copyReg x y => formXYN 0x8 x y 0x0
  | .orReg x y => formXYN 0x8 x y 0x1
  | .andReg x y => formXYN 0x8 x y 0x2
  | .xorReg x y => formXYN 0x8 x y 0x3
  | .addReg x y => formXYN 0x8 x y 0x4
  | .subReg x y => formXYN 0x8 x y 0x5
  | .shiftRight x y => formXYN 0x8 x y 0x6
  | .revSubReg x y => formXYN 0x8 x y 0x7
  | .shiftLeft x y => formXYN 0x8 x y 0xE
  | .skipNeReg x y => formXYN 0x9 x y 0x0
  | .loadIndex nnn => formNNN 0xA nnn
  | .jumpOffset _ nnn => formNNN 0xB nnn
  | .random x nn => formXNN 0xC x nn
  | .draw x y n => formXYN 0xD x y (BitVec.ofFin (w := 4) n)
  | .skipKeyHeld x => formXNN 0xE x 0x9E
  | .skipKeyNotHeld x => formXNN 0xE x 0xA1
  | .readDelay x => formXNN 0xF x 0x07
  | .waitKey x => formXNN 0xF x 0x0A
  | .setDelay x => formXNN 0xF x 0x15
  | .setSound x => formXNN 0xF x 0x18
  | .addIndex x => formXNN 0xF x 0x1E
  | .glyphAddr x => formXNN 0xF x 0x29
  | .storeDecimal x => formXNN 0xF x 0x33
  | .storeRegs x => formXNN 0xF x 0x55
  | .loadRegs x => formXNN 0xF x 0x65

/-- The bytes of an instruction as memory holds them. -/
def encodeBytes (i : Instr) : List Byte := bytesOfWord (encode i)

/-! ### The match/mask table (R91) -/

/-- One row of the match/mask table: a word `w` is the row's instruction when `w &&& mask = value`. -/
structure OpcodeRow where
  value : Word
  mask : Word
  deriving DecidableEq, Repr

/-- The word lies in the row. -/
abbrev OpcodeRow.Matches (r : OpcodeRow) (w : Word) : Prop := w &&& r.mask = r.value

/-- The row of R91 an instruction belongs to. -/
def opcodeRow : Instr → OpcodeRow
  | .clearScreen => ⟨0x00E0, 0xFFFF⟩
  | .ret => ⟨0x00EE, 0xFFFF⟩
  | .jump _ => ⟨0x1000, 0xF000⟩
  | .call _ => ⟨0x2000, 0xF000⟩
  | .skipEqImm _ _ => ⟨0x3000, 0xF000⟩
  | .skipNeImm _ _ => ⟨0x4000, 0xF000⟩
  | .skipEqReg _ _ => ⟨0x5000, 0xF00F⟩
  | .loadImm _ _ => ⟨0x6000, 0xF000⟩
  | .addImm _ _ => ⟨0x7000, 0xF000⟩
  | .copyReg _ _ => ⟨0x8000, 0xF00F⟩
  | .orReg _ _ => ⟨0x8001, 0xF00F⟩
  | .andReg _ _ => ⟨0x8002, 0xF00F⟩
  | .xorReg _ _ => ⟨0x8003, 0xF00F⟩
  | .addReg _ _ => ⟨0x8004, 0xF00F⟩
  | .subReg _ _ => ⟨0x8005, 0xF00F⟩
  | .shiftRight _ _ => ⟨0x8006, 0xF00F⟩
  | .revSubReg _ _ => ⟨0x8007, 0xF00F⟩
  | .shiftLeft _ _ => ⟨0x800E, 0xF00F⟩
  | .skipNeReg _ _ => ⟨0x9000, 0xF00F⟩
  | .loadIndex _ => ⟨0xA000, 0xF000⟩
  | .jumpOffset _ _ => ⟨0xB000, 0xF000⟩
  | .random _ _ => ⟨0xC000, 0xF000⟩
  | .draw _ _ _ => ⟨0xD000, 0xF000⟩
  | .skipKeyHeld _ => ⟨0xE09E, 0xF0FF⟩
  | .skipKeyNotHeld _ => ⟨0xE0A1, 0xF0FF⟩
  | .readDelay _ => ⟨0xF007, 0xF0FF⟩
  | .waitKey _ => ⟨0xF00A, 0xF0FF⟩
  | .setDelay _ => ⟨0xF015, 0xF0FF⟩
  | .setSound _ => ⟨0xF018, 0xF0FF⟩
  | .addIndex _ => ⟨0xF01E, 0xF0FF⟩
  | .glyphAddr _ => ⟨0xF029, 0xF0FF⟩
  | .storeDecimal _ => ⟨0xF033, 0xF0FF⟩
  | .storeRegs _ => ⟨0xF055, 0xF0FF⟩
  | .loadRegs _ => ⟨0xF065, 0xF0FF⟩

/-- The 34 rows of R91, in the table's order. -/
def opcodeRows : List OpcodeRow :=
  ([.clearScreen, .ret, .jump 0, .call 0, .skipEqImm 0 0, .skipNeImm 0 0, .skipEqReg 0 0, .loadImm 0 0, .addImm 0 0,
    .copyReg 0 0, .orReg 0 0, .andReg 0 0, .xorReg 0 0, .addReg 0 0, .subReg 0 0, .shiftRight 0 0, .revSubReg 0 0,
    .shiftLeft 0 0, .skipNeReg 0 0, .loadIndex 0, .jumpOffset 0 0, .random 0 0, .draw 0 0 0] ++
   [.skipKeyHeld 0, .skipKeyNotHeld 0, .readDelay 0, .waitKey 0, .setDelay 0, .setSound 0, .addIndex 0, .glyphAddr 0,
    .storeDecimal 0, .storeRegs 0, .loadRegs 0] : List Instr).map opcodeRow

/-! ### The host's entry -/

/-- The instruction the decoder reads from a table word of `nbits` bits, laid out as the hardware stores it (R80). -/
def decodeTableWord (nbits w : Nat) : Option Instr :=
  match decodeBytes (bytesOfWord (BitVec.ofNat 16 (w % 2 ^ nbits))) with
  | .ok (i, _) => some i
  | .error _ => none

end Sys2Proof
end

