-- ==== Sys2Proof/Config.lean ====
section
/-! DEFINITION. What is fixed for the machine (the Compatibility Configuration's type, DRAW_SETS_VF), and the
environment's free values as constants with no body. -/

namespace Sys2Proof

/-- The Compatibility Configuration, with the defaults of spec 10_state.md R34. -/
structure Compat where
  /-- `font_start`, the address of the 80-byte font. -/
  fontStart : Word := 0x050
  /-- `jump_offset_legacy`, read by BNNN. -/
  jumpOffsetLegacy : Bool := false
  /-- `register_save_legacy`, read by FX55 and FX65. -/
  registerSaveLegacy : Bool := false
  /-- `index_add_carry`, read by FX1E. -/
  indexAddCarry : Bool := false
  /-- `shift_vx_in_place`, read by 8XY6 and 8XYE. -/
  shiftVxInPlace : Bool := false
  deriving DecidableEq, Repr

/-- The inputs of one EXECUTE (spec 40_fetch_decode.md R104, R111). -/
structure Inputs where
  /-- The optional key snapshot: bit k is 1 when key k is held (spec 45_timer_input.md R206). -/
  keys : Option (BitVec 16)
  /-- The random byte (spec 42_register_alu.md R153). -/
  rnd : Byte
  /-- Which key PressedKey() is to answer when several are held (spec 45_timer_input.md R206). -/
  pick : Key
  deriving DecidableEq, Repr

namespace Config

/-- The parameter `DRAW_SETS_VF`, false for this hardware (spec 44_framebuffer_sprite.md R190, 00_scope.md R7). -/
def drawSetsVF : Bool := false

/-- FREE VALUE: the key snapshot of the n-th drawn EXECUTE (spec 40_fetch_decode.md R111; log entry 2). -/
opaque freeKeys : Nat → Option (BitVec 16)

/-- FREE VALUE: the random byte of the n-th drawn EXECUTE (spec 42_register_alu.md R153; log entry 2). -/
opaque freeRnd : Nat → Byte

/-- FREE VALUE: the key choice of the n-th drawn EXECUTE (spec 45_timer_input.md R206; log entry 2). -/
opaque freePick : Nat → Key

/-- The free inputs of the n-th drawn EXECUTE. -/
def freeInputs (n : Nat) : Inputs := { keys := freeKeys n, rnd := freeRnd n, pick := freePick n }

end Config

end Sys2Proof
end

