-- ==== Sys2Proof/Machine/State.lean ====
section
/-! DEFINITION. The machine's state as plain data (spec 10_state.md), the state after reset (R38), and the reasons a
step can stop. -/

namespace Sys2Proof.Machine

/-- The memory bank as (address, byte) pairs; `Memory.wf` of Machine/Ops.lean is its canonical form. -/
abbrev Memory := List Host.Cell

/-- The run status (spec 10_state.md R37). -/
inductive Status where
  /-- After RESET, before the first FETCH. -/
  | load
  | run
  | faulted
  deriving DecidableEq, Repr

/-- The fault kinds (spec 60_exceptions.md R220). -/
inductive FaultKind where
  | decodeError
  | stackOverflow
  | stackUnderflow
  | outOfBounds
  | invalidKey
  | programTooLarge
  | fontSizeInvalid
  deriving DecidableEq, Repr

/-- The fault record (spec 60_exceptions.md R228). Its `code` is a function of its kind
(`FaultKind.code` of Machine/Ops.lean, R220; log entry 14). -/
structure FaultRecord where
  kind : FaultKind
  /-- The address of the instruction that faulted; absent for a load fault. -/
  addr : Option Word
  /-- The instruction word of an EXECUTE fault; absent otherwise. -/
  word : Option Word
  /-- R220's `info`, an exact natural number. -/
  info : Option Nat
  deriving DecidableEq, Repr

/-- The operations of spec 40_fetch_decode.md R100, by name. -/
inductive Operation where
  | reset
  | loadFont
  | loadProgram
  | fetch
  | execute
  | tick
  | readOutputs
  deriving DecidableEq, Repr

/-- An operation the host requests, with its arguments (spec 40_fetch_decode.md R100). -/
inductive Request where
  | reset (cfg : Compat)
  | loadFont (bytes : List Byte)
  | loadProgram (bytes : List Byte)
  | fetch
  | execute (inputs : Inputs)
  | tick
  | readOutputs
  deriving DecidableEq, Repr

structure State where
  /-- V0..VF (R20, R21). -/
  v : Vector Byte 16
  /-- I (R23). -/
  index : Word
  /-- The program counter (R24, R26). -/
  pc : Word
  /-- stack[0..31]; entries at or above `sp` are stale (R27). -/
  stack : Vector Word 32
  /-- SP, the number of entries held (R27). -/
  sp : Fin 33
  /-- DT (R29). -/
  dt : Byte
  /-- ST (R30). -/
  st : Byte
  /-- fb[0..31] (R31). -/
  fb : Vector FbRow 32
  /-- mem[0..4095] (R32, 20_memory.md R50). -/
  mem : Memory
  /-- The Compatibility Configuration (R34, R35). -/
  cfg : Compat
  /-- The instruction latch: the word, its address, and whether it waits for EXECUTE (R36). -/
  irWord : Word
  irAddr : Word
  irValid : Bool
  /-- The run status (R37). -/
  status : Status
  /-- The fault record, if any (R37, 60_exceptions.md R228). -/
  fault : Option FaultRecord
  /-- The exit flag (R39). -/
  exited : Bool
  /-- MODEL's own: the inputs sampled at the current EXECUTE (40_fetch_decode.md R111; log entry 2). -/
  inputs : Inputs
  /-- MODEL's own: the host's pending requests, oldest first (40_fetch_decode.md R100; log entry 1). -/
  requests : List Request
  /-- MODEL's own: how many times free inputs have been drawn (log entry 2). -/
  draws : Nat
  deriving DecidableEq, Repr

/-- The state RESET(cfg) leaves (spec 10_state.md R38, 70_reset_and_hazards.md R250). -/
def State.resetWith (cfg : Compat) : State where
  v := Vector.replicate 16 0
  index := 0
  pc := 0x0200
  stack := Vector.replicate 32 0
  sp := 0
  dt := 0
  st := 0
  fb := Vector.replicate 32 0
  mem := []
  cfg := cfg
  irWord := 0
  irAddr := 0
  irValid := false
  status := .load
  fault := none
  exited := false
  inputs := { keys := none, rnd := 0, pick := 0 }
  requests := []
  draws := 0

/-- The machine right after RESET with the default configuration (spec 10_state.md R34, R38). -/
def State.reset : State := State.resetWith {}

/-- Why the machine has stopped. -/
inductive Fault where
  /-- Answered by every operation but RESET requested in status FAULTED: the run ended at an earlier operation, whose
  record this is (spec 60_exceptions.md R232, 10_state.md R37). Safe: the spec gives no step there (log entry 4). -/
  | terminal (record : Option FaultRecord)
  deriving DecidableEq, Repr

/-- Why a requested operation has no step. -/
inductive Refusal where
  /-- Answered by exec's arm of an instruction that has no meaning yet. Safe. -/
  | notModelled (mnemonic : String)
  /-- Answered by an operation requested in status LOAD or RUN when spec 40_fetch_decode.md R100 does not accept it.
  Safe: the spec gives no step there (log entry 5). -/
  | notAccepted (op : Operation)
  /-- Answered by RESET with `font_start` above 0x1B0 (spec 70_reset_and_hazards.md R250). Safe: the spec refuses it. -/
  | fontStartOutOfRange (fontStart : Word)
  deriving DecidableEq, Repr

end Sys2Proof.Machine
end

