-- ==== Sys2Proof/Machine/Ops.lean ====
section
/-! DEFINITION. The named operations over memory, registers, stack, framebuffer, inputs and outputs, and fault entry.
An operation that can fault answers `Except Nat`, the error being R220's `info`. -/

namespace Sys2Proof.Machine

/-! ### Memory (spec 20_memory.md) -/

/-- What an address that the list does not name reads as: the reset contents (spec 10_state.md R38; log entry 6). -/
def Memory.unlisted : Byte := 0x00

/-- The byte at an address. -/
def Memory.byteAt : Memory → Nat → Byte
  | [], _ => Memory.unlisted
  | (a, b) :: m, addr => if a = addr then b else Memory.byteAt m addr

/-- Replace the byte at an address, keeping addresses rising and listing nothing that reads as unlisted. -/
def Memory.setByte : Memory → Nat → Byte → Memory
  | [], addr, b => if b = Memory.unlisted then [] else [(addr, b)]
  | (a, c) :: m, addr, b =>
    if addr < a then (if b = Memory.unlisted then (a, c) :: m else (addr, b) :: (a, c) :: m)
    else if addr = a then (if b = Memory.unlisted then m else (addr, b) :: m)
    else (a, c) :: Memory.setByte m addr b

/-- The canonical form: addresses strictly rising, all inside the bank, and no entry that reads as unlisted. -/
abbrev Memory.wf (m : Memory) : Prop :=
  m.Pairwise (fun c d => c.1 < d.1) ∧ ∀ c ∈ m, c.1 < 4096 ∧ c.2 ≠ Memory.unlisted

/-- `MemRead(addr, 1)` (R51). -/
def memRead (m : Memory) (addr : Nat) : Except Nat Byte :=
  if addr ≥ 4096 then .error addr else .ok (m.byteAt addr)

/-- `MemWrite(addr, 1, v)` (R52). -/
def memWrite (m : Memory) (addr : Nat) (b : Byte) : Except Nat Memory :=
  if addr ≥ 4096 then .error addr else .ok (m.setByte addr b)

/-- `CheckRange(a, len)`: the error is the lowest address of the range outside the bank (R53). -/
def checkRange (a len : Nat) : Except Nat Unit :=
  if len = 0 ∨ a + len ≤ 4096 then .ok () else .error (max a 4096)

/-- The bytes at `a`, `a + 1`, …, by one-byte reads. -/
def readBytes (m : Memory) (a : Nat) : Nat → Except Nat (List Byte)
  | 0 => .ok []
  | len + 1 =>
    match memRead m a with
    | .error e => .error e
    | .ok b => (readBytes m (a + 1) len).map (b :: ·)

/-- Store bytes at `a`, `a + 1`, …, by one-byte writes. -/
def writeBytes (m : Memory) (a : Nat) : List Byte → Except Nat Memory
  | [] => .ok m
  | b :: bs =>
    match memWrite m a b with
    | .error e => .error e
    | .ok m' => writeBytes m' (a + 1) bs

/-- A multi-byte read: the whole range is checked first (R53). -/
def loadBytes (m : Memory) (a len : Nat) : Except Nat (List Byte) :=
  match checkRange a len with
  | .error e => .error e
  | .ok _ => readBytes m a len

/-- A multi-byte write: the whole range is checked first (R53). -/
def storeBytes (m : Memory) (a : Nat) (bs : List Byte) : Except Nat Memory :=
  match checkRange a bs.length with
  | .error e => .error e
  | .ok _ => writeBytes m a bs

/-! ### Registers and plain updates (spec 10_state.md) -/

/-- Read `V[r]`. -/
def State.reg (s : State) (r : Reg) : Byte := s.v.get r

/-- `V[r] <- b`. -/
def State.setReg (s : State) (r : Reg) (b : Byte) : State := { s with v := s.v.set r.val b r.isLt }

/-- Replace the register file. -/
def State.setRegs (s : State) (v : Vector Byte 16) : State := { s with v := v }

/-- `I <- w`. -/
def State.setIndex (s : State) (w : Word) : State := { s with index := w }

/-- `pc <- w`. -/
def State.setPc (s : State) (w : Word) : State := { s with pc := w }

/-- `skip` (spec 40_fetch_decode.md R108). -/
def State.skip (s : State) : State := s.setPc (s.pc + 2)

/-- `DT <- b`. -/
def State.setDelay (s : State) (b : Byte) : State := { s with dt := b }

/-- `ST <- b`. -/
def State.setSound (s : State) (b : Byte) : State := { s with st := b }

/-- Replace the framebuffer. -/
def State.setFb (s : State) (fb : Vector FbRow 32) : State := { s with fb := fb }

/-- Replace the memory. -/
def State.setMem (s : State) (m : Memory) : State := { s with mem := m }

/-- Replace the call stack and SP. -/
def State.setCallStack (s : State) (stack : Vector Word 32) (sp : Fin 33) : State :=
  { s with stack := stack, sp := sp }

/-- The registers with `bytes` loaded into register `k`, `k + 1`, …. -/
def regsWith (v : Vector Byte 16) (k : Nat) : List Byte → Vector Byte 16
  | [] => v
  | b :: bs => regsWith (v.setIfInBounds k b) (k + 1) bs

/-! ### The call stack (R27) -/

/-- `Push(w)`; the error is SP. -/
def State.push (s : State) (w : Word) : Except Nat State :=
  if h : s.sp.val < 32 then
    .ok (s.setCallStack (s.stack.set s.sp.val w h) ⟨s.sp.val + 1, Nat.succ_lt_succ h⟩)
  else .error s.sp.val

/-- `Pop()`: the entry and the state after; the error is SP. -/
def State.pop (s : State) : Except Nat (Word × State) :=
  if h : s.sp.val = 0 then .error s.sp.val
  else
    .ok (s.stack.get ⟨s.sp.val - 1, by omega⟩,
      s.setCallStack s.stack ⟨s.sp.val - 1, by omega⟩)

/-! ### The sprite engine (spec 44_framebuffer_sprite.md) -/

/-- `SpriteMask(x0, b)` (R183). -/
def spriteMask (x0 : Nat) (b : Byte) : FbRow :=
  if x0 > 56 then b.setWidth 64 >>> (x0 - 56) else b.setWidth 64 <<< (56 - x0)

/-- `DrawRow(x0, y, b)`; a row at or beyond 32 is clipped (R182, R184). -/
def drawRow (fb : Vector FbRow 32) (x0 y : Nat) (b : Byte) : Vector FbRow 32 :=
  if h : y < 32 then fb.set y (fb[y] ^^^ spriteMask x0 b) h else fb

/-- Sprite rows from row `y` down (R182, R187). -/
def drawRows (fb : Vector FbRow 32) (x0 y : Nat) : List Byte → Vector FbRow 32
  | [] => fb
  | b :: bs => drawRows (drawRow fb x0 y b) x0 (y + 1) bs

/-- `Clear()` (R185). -/
def clearedFb : Vector FbRow 32 := Vector.replicate 32 0

/-- Pixel (column c, row r), off outside the surface (spec 10_state.md R31). -/
def pixel (fb : Vector FbRow 32) (c r : Nat) : Bool :=
  if h : r < 32 then decide (c < 64) && (fb[r]).getLsbD (63 - c) else false

/-- Some pixel that was on is off: the collision of `DRAW_SETS_VF = true` (R190; log entry 9). -/
def collided (before after : Vector FbRow 32) : Bool :=
  (before.toList.zip after.toList).any (fun p => p.1 &&& ~~~p.2 != 0)

/-! ### The inputs of an EXECUTE (spec 45_timer_input.md R206, R207) -/

/-- `KeyHeld(k)`; no snapshot is a snapshot with no key held. -/
def keyHeld (inp : Inputs) (k : Key) : Bool :=
  match inp.keys with
  | none => false
  | some ks => ks.getLsbD k.val

/-- `PressedKey()`: `pick` when it is held; otherwise the next held key above it, cyclically, so that the answer is always
a held key and every held key is some pick's answer (log entry 3). -/
def pressedKey (inp : Inputs) : Option Key :=
  ((List.finRange 16).map (inp.pick + ·)).find? (keyHeld inp)

/-- The random byte (spec 42_register_alu.md R153). -/
def randByte (s : State) : Byte := s.inputs.rnd

/-! ### Faults (spec 60_exceptions.md) -/

/-- The numeric code of a kind (R220). -/
def FaultKind.code : FaultKind → Nat
  | .decodeError => 1
  | .stackOverflow => 2
  | .stackUnderflow => 3
  | .outOfBounds => 4
  | .invalidKey => 5
  | .programTooLarge => 6
  | .fontSizeInvalid => 7

/-- The `code` of a record (R228). -/
def FaultRecord.code (r : FaultRecord) : Nat := r.kind.code

/-- FAULT ENTRY, shared by every operation that raises (R229): the record, status FAULTED, no word latched; nothing else.
There is no return from a fault (R232): RESET, `State.afterReset`, is the only way out. -/
def State.enterFault (s : State) (r : FaultRecord) : State :=
  { s with fault := some r, status := .faulted, irValid := false }

/-- A fault of an EXECUTE: the latch gives the address and the word (R228). -/
def State.raise (s : State) (kind : FaultKind) (info : Option Nat) : State :=
  s.enterFault { kind := kind, addr := some s.irAddr, word := some s.irWord, info := info }

/-- A fault of a FETCH: the address is pc, and there is no word (R228). -/
def State.raiseFetch (s : State) (kind : FaultKind) (info : Nat) : State :=
  s.enterFault { kind := kind, addr := some s.pc, word := none, info := some info }

/-- A fault of a load: neither address nor word (R228). -/
def State.raiseLoad (s : State) (kind : FaultKind) (info : Nat) : State :=
  s.enterFault { kind := kind, addr := none, word := none, info := some info }

/-- What RESET(cfg) leaves; the model's own pending requests and draw counter go on
(spec 70_reset_and_hazards.md R250; log entry 13). -/
def State.afterReset (s : State) (cfg : Compat) : State :=
  { State.resetWith cfg with requests := s.requests, draws := s.draws }

/-- Go on with the value of a checked operation, or raise its fault before any write (spec 40_fetch_decode.md R109). -/
def State.orRaise {α : Type} (s : State) (kind : FaultKind) (r : Except Nat α) (k : α → State) : State :=
  match r with
  | .ok a => k a
  | .error info => s.raise kind (some info)

/-! ### Outputs (spec 10_state.md R40) -/

/-- `audio_active` (spec 45_timer_input.md R205). -/
def State.audioActive (s : State) : Bool := s.st != 0

/-- `has_exited()` (spec 10_state.md R39). -/
def State.hasExited (s : State) : Bool := s.exited

/-- What the external audio device is told between two states (spec 45_timer_input.md R205). -/
inductive AudioEvent where
  | start
  | stop
  deriving DecidableEq, Repr

/-- `start()` when `audio_active` goes from 0 to 1, `stop()` when it goes from 1 to 0 (spec 45_timer_input.md R205). -/
def audioEvent (before after : State) : Option AudioEvent :=
  match before.audioActive, after.audioActive with
  | false, true => some .start
  | true, false => some .stop
  | _, _ => none

/-- Whether the operation is accepted (spec 40_fetch_decode.md R100). -/
def State.accepts (s : State) : Operation → Bool
  | .reset => true
  | .loadFont => s.status == .load
  | .loadProgram => s.status == .load
  | .fetch => s.status != .faulted && !s.irValid
  | .execute => s.status == .run && s.irValid
  | .tick => s.status != .faulted
  | .readOutputs => true

/-- The answer to an operation that is not accepted: the machine has stopped, or the order is wrong
(spec 40_fetch_decode.md R100, 60_exceptions.md R232; log entries 4, 5). -/
def State.notAccepted (s : State) (op : Operation) : Host.Outcome State Fault Refusal :=
  if s.status = .faulted then .fault (.terminal s.fault) else .refused (.notAccepted op)

end Sys2Proof.Machine
end

