-- ==== Sys2Proof/Machine/Operands.lean ====
section
/-! DEFINITION. The operand forms (spec 30_encoding.md R84): zero-extended addresses, the registers a configuration
selects, key numbers, byte ranges, decimal digits. -/

namespace Sys2Proof.Machine

/-- `zext_16(nnn)` (R84). -/
def zextAddr (nnn : Addr12) : Word := nnn.setWidth 16

/-- The base register of BNNN (spec 41_flow_stack.md R127). -/
def jumpBase (cfg : Compat) (x : Reg) : Reg := if cfg.jumpOffsetLegacy then 0 else x

/-- The source of 8XY6 and 8XYE (spec 42_register_alu.md R149, R151). -/
def shiftSource (s : State) (x y : Reg) : Byte := if s.cfg.shiftVxInPlace then s.reg x else s.reg y

/-- A register's value as a key number; the error is the value (spec 45_timer_input.md R208). -/
def keyNumber (b : Byte) : Except Nat Key :=
  if h : b.toNat < 16 then .ok ⟨b.toNat, h⟩ else .error b.toNat

/-- V0..Vx, the bytes FX55 stores (spec 43_index_memory.md R164). -/
def regRange (s : State) (x : Reg) : List Byte := s.v.toList.take (x.val + 1)

/-- Hundreds, tens, units (spec 43_index_memory.md R163). -/
def decimalDigits (b : Byte) : List Byte := [b / 100, b / 10 % 10, b % 10]

/-- I after FX55 or FX65 (spec 43_index_memory.md R164, R165). -/
def indexAfterTransfer (s : State) (x : Reg) : Word :=
  if s.cfg.registerSaveLegacy then s.index + BitVec.ofNat 16 (x.val + 1) else s.index

/-- The glyph address of FX29 (spec 43_index_memory.md R162). -/
def glyphAddress (cfg : Compat) (digit : Byte) : Word := cfg.fontStart + 5 * digit.setWidth 16

/-- The start column of a sprite (spec 44_framebuffer_sprite.md R181). -/
def startColumn (b : Byte) : Nat := b.toNat % 64

/-- The start row of a sprite (spec 44_framebuffer_sprite.md R181). -/
def startRow (b : Byte) : Nat := b.toNat % 32

end Sys2Proof.Machine
end

