-- ==== Sys2Proof/Machine/FlowStack.lean ====
section
/-! DEFINITION. Control flow and the call stack (spec 41_flow_stack.md). `pc` is already past the instruction. -/

namespace Sys2Proof.Machine

/-- 00EE (R120). -/
def execRet (s : State) : Host.Outcome State Fault Refusal :=
  .next (s.orRaise .stackUnderflow s.pop fun p => p.2.setPc p.1)

/-- 1NNN (R121). -/
def execJump (nnn : Addr12) (s : State) : Host.Outcome State Fault Refusal :=
  .next (s.setPc (zextAddr nnn))

/-- 2NNN (R122). -/
def execCall (nnn : Addr12) (s : State) : Host.Outcome State Fault Refusal :=
  .next (s.orRaise .stackOverflow (s.push s.pc) fun s' => s'.setPc (zextAddr nnn))

/-- 3XNN (R123). -/
def execSkipEqImm (x : Reg) (nn : Byte) (s : State) : Host.Outcome State Fault Refusal :=
  .next (if s.reg x = nn then s.skip else s)

/-- 4XNN (R124). -/
def execSkipNeImm (x : Reg) (nn : Byte) (s : State) : Host.Outcome State Fault Refusal :=
  .next (if s.reg x ≠ nn then s.skip else s)

/-- 5XY0 (R125). -/
def execSkipEqReg (x y : Reg) (s : State) : Host.Outcome State Fault Refusal :=
  .next (if s.reg x = s.reg y then s.skip else s)

/-- 9XY0 (R126). -/
def execSkipNeReg (x y : Reg) (s : State) : Host.Outcome State Fault Refusal :=
  .next (if s.reg x ≠ s.reg y then s.skip else s)

/-- BNNN (R127). -/
def execJumpOffset (x : Reg) (nnn : Addr12) (s : State) : Host.Outcome State Fault Refusal :=
  .next (s.setPc ((s.reg (jumpBase s.cfg x)).setWidth 16 + zextAddr nnn))

end Sys2Proof.Machine
end

