-- ==== Sys2Proof/Machine/Flags.lean ====
section
/-! DEFINITION. The flag computations, each from exact naturals (spec 42_register_alu.md R140, R154), and the shared write
of a result and a flag. -/

namespace Sys2Proof.Machine

/-- A condition as VF holds it. -/
def flag (c : Bool) : Byte := if c then 1 else 0

/-- 8XY4: the 9-bit sum exceeds 255 (R147). -/
def carryFlag (a b : Byte) : Byte := flag (a.toNat + b.toNat > 255)

/-- 8XY5 as `a - b`, 8XY7 as `b - a`: 0 on a borrow, that is when the subtrahend is greater (R148, R150). -/
def notBorrowFlag (minuend subtrahend : Byte) : Byte := flag (¬ subtrahend.toNat > minuend.toNat)

/-- 8XY6: the bit shifted out, `s[0]` (R149). -/
def lowBitFlag (b : Byte) : Byte := flag (b.getLsbD 0)

/-- 8XYE: the bit shifted out, `s[7]` (R151). -/
def highBitFlag (b : Byte) : Byte := flag (b.getLsbD 7)

/-- FX1E: the exact sum reaches 0x1000 (spec 43_index_memory.md R161). -/
def indexCarryFlag (index : Word) (b : Byte) : Byte := flag (index.toNat + b.toNat ≥ 0x1000)

/-- `V[x] <- result`, then `VF <- flag` (R140). -/
def State.setResultAndFlag (s : State) (x : Reg) (result flag : Byte) : State := (s.setReg x result).setReg VF flag

end Sys2Proof.Machine
end

