-- ==== Sys2Proof/Machine/FramebufferSprite.lean ====
section
/-! DEFINITION. The framebuffer instructions (spec 44_framebuffer_sprite.md). -/

namespace Sys2Proof.Machine

/-- 00E0 (R186). -/
def execClearScreen (s : State) : Host.Outcome State Fault Refusal :=
  .next (s.setFb clearedFb)

/-- The framebuffer after the sprite rows are drawn, and VF as `DRAW_SETS_VF` says (R187, R190). -/
def drawSprite (s : State) (x0 y0 : Nat) (rows : List Byte) : State :=
  let s' := s.setFb (drawRows s.fb x0 y0 rows)
  if Config.drawSetsVF then s'.setReg VF (flag (collided s.fb s'.fb)) else s'

/-- DXYN (R187): all `n` bytes are read, those of clipped rows too. -/
def execDraw (x y : Reg) (n : Fin 16) (s : State) : Host.Outcome State Fault Refusal :=
  .next (s.orRaise .outOfBounds (loadBytes s.mem s.index.toNat n.val) fun rows =>
    drawSprite s (startColumn (s.reg x)) (startRow (s.reg y)) rows)

end Sys2Proof.Machine
end

