-- ==== Sys2Proof/Machine/IndexMemory.lean ====
section
/-! DEFINITION. The Index register and memory transfers (spec 43_index_memory.md). -/

namespace Sys2Proof.Machine

/-- ANNN (R160). -/
def execLoadIndex (nnn : Addr12) (s : State) : Host.Outcome State Fault Refusal :=
  .next (s.setIndex (zextAddr nnn))

/-- FX1E (R161): both operands are read before either write (spec 40_fetch_decode.md R106). -/
def execAddIndex (x : Reg) (s : State) : Host.Outcome State Fault Refusal :=
  let s' := s.setIndex (s.index + (s.reg x).setWidth 16)
  .next (if s.cfg.indexAddCarry then s'.setReg VF (indexCarryFlag s.index (s.reg x)) else s')

/-- FX29 (R162). -/
def execGlyphAddr (x : Reg) (s : State) : Host.Outcome State Fault Refusal :=
  .next (s.setIndex (glyphAddress s.cfg (s.reg x)))

/-- FX33 (R163). -/
def execStoreDecimal (x : Reg) (s : State) : Host.Outcome State Fault Refusal :=
  .next (s.orRaise .outOfBounds (storeBytes s.mem s.index.toNat (decimalDigits (s.reg x))) s.setMem)

/-- FX55 (R164). -/
def execStoreRegs (x : Reg) (s : State) : Host.Outcome State Fault Refusal :=
  .next (s.orRaise .outOfBounds (storeBytes s.mem s.index.toNat (regRange s x)) fun m =>
    (s.setMem m).setIndex (indexAfterTransfer s x))

/-- FX65 (R165). -/
def execLoadRegs (x : Reg) (s : State) : Host.Outcome State Fault Refusal :=
  .next (s.orRaise .outOfBounds (loadBytes s.mem s.index.toNat (x.val + 1)) fun bs =>
    (s.setRegs (regsWith s.v 0 bs)).setIndex (indexAfterTransfer s x))

end Sys2Proof.Machine
end

