-- ==== Sys2Proof/Machine/TimerInput.lean ====
section
/-! DEFINITION. The timer instructions and the key instructions (spec 45_timer_input.md). -/

namespace Sys2Proof.Machine

/-- FX07 (R202). -/
def execReadDelay (x : Reg) (s : State) : Host.Outcome State Fault Refusal :=
  .next (s.setReg x s.dt)

/-- FX15 (R203). -/
def execSetDelay (x : Reg) (s : State) : Host.Outcome State Fault Refusal :=
  .next (s.setDelay (s.reg x))

/-- FX18 (R204). -/
def execSetSound (x : Reg) (s : State) : Host.Outcome State Fault Refusal :=
  .next (s.setSound (s.reg x))

/-- EX9E (R208). -/
def execSkipKeyHeld (x : Reg) (s : State) : Host.Outcome State Fault Refusal :=
  .next (s.orRaise .invalidKey (keyNumber (s.reg x)) fun k =>
    if keyHeld s.inputs k then s.skip else s)

/-- EXA1 (R209). -/
def execSkipKeyNotHeld (x : Reg) (s : State) : Host.Outcome State Fault Refusal :=
  .next (s.orRaise .invalidKey (keyNumber (s.reg x)) fun k =>
    if keyHeld s.inputs k then s else s.skip)

/-- FX0A (R210): with no key held, pc goes back to this instruction (R211). -/
def execWaitKey (x : Reg) (s : State) : Host.Outcome State Fault Refusal :=
  .next (match pressedKey s.inputs with
    | some k => s.setReg x (BitVec.ofNat 8 k.val)
    | none => s.setPc (s.pc - 2))

end Sys2Proof.Machine
end

