-- ==== Sys2Proof/Machine/Dispatch.lean ====
section
/-! DEFINITION. One arm per instruction: the meaning of the row an EXECUTE performs (spec 40_fetch_decode.md R104). -/

namespace Sys2Proof.Machine

def exec (i : Instr) (s : State) : Host.Outcome State Fault Refusal :=
  match i with
  -- 00E0
  | .clearScreen => Sys2Proof.Machine.execClearScreen s
  -- 00EE
  | .ret => Sys2Proof.Machine.execRet s
  -- 1NNN
  | .jump nnn => Sys2Proof.Machine.execJump nnn s
  -- 2NNN
  | .call nnn => Sys2Proof.Machine.execCall nnn s
  -- 3XNN
  | .skipEqImm x nn => Sys2Proof.Machine.execSkipEqImm x nn s
  -- 4XNN
  | .skipNeImm x nn => Sys2Proof.Machine.execSkipNeImm x nn s
  -- 5XY0
  | .skipEqReg x y => Sys2Proof.Machine.execSkipEqReg x y s
  -- 6XNN
  | .loadImm x nn => Sys2Proof.Machine.execLoadImm x nn s
  -- 7XNN
  | .addImm x nn => Sys2Proof.Machine.execAddImm x nn s
  -- 8XY0
  | .copyReg x y => Sys2Proof.Machine.execCopyReg x y s
  -- 8XY1
  | .orReg x y => Sys2Proof.Machine.execOrReg x y s
  -- 8XY2
  | .andReg x y => Sys2Proof.Machine.execAndReg x y s
  -- 8XY3
  | .xorReg x y => Sys2Proof.Machine.execXorReg x y s
  -- 8XY4
  | .addReg x y => Sys2Proof.Machine.execAddReg x y s
  -- 8XY5
  | .subReg x y => Sys2Proof.Machine.execSubReg x y s
  -- 8XY6
  | .shiftRight x y => Sys2Proof.Machine.execShiftRight x y s
  -- 8XY7
  | .revSubReg x y => Sys2Proof.Machine.execRevSubReg x y s
  -- 8XYE
  | .shiftLeft x y => Sys2Proof.Machine.execShiftLeft x y s
  -- 9XY0
  | .skipNeReg x y => Sys2Proof.Machine.execSkipNeReg x y s
  -- ANNN
  | .loadIndex nnn => Sys2Proof.Machine.execLoadIndex nnn s
  -- BNNN
  | .jumpOffset x nnn => Sys2Proof.Machine.execJumpOffset x nnn s
  -- CXNN
  | .random x nn => Sys2Proof.Machine.execRandom x nn s
  -- DXYN
  | .draw x y n => Sys2Proof.Machine.execDraw x y n s
  -- EX9E
  | .skipKeyHeld x => Sys2Proof.Machine.execSkipKeyHeld x s
  -- EXA1
  | .skipKeyNotHeld x => Sys2Proof.Machine.execSkipKeyNotHeld x s
  -- FX07
  | .readDelay x => Sys2Proof.Machine.execReadDelay x s
  -- FX0A
  | .waitKey x => Sys2Proof.Machine.execWaitKey x s
  -- FX15
  | .setDelay x => Sys2Proof.Machine.execSetDelay x s
  -- FX18
  | .setSound x => Sys2Proof.Machine.execSetSound x s
  -- FX1E
  | .addIndex x => Sys2Proof.Machine.execAddIndex x s
  -- FX29
  | .glyphAddr x => Sys2Proof.Machine.execGlyphAddr x s
  -- FX33
  | .storeDecimal x => Sys2Proof.Machine.execStoreDecimal x s
  -- FX55
  | .storeRegs x => Sys2Proof.Machine.execStoreRegs x s
  -- FX65
  | .loadRegs x => Sys2Proof.Machine.execLoadRegs x s

end Sys2Proof.Machine
end

