-- ==== Sys2Proof/Machine/Operations.lean ====
section
/-! DEFINITION. The operations the host may request (spec 40_fetch_decode.md R100), and the cycle (R110). -/

namespace Sys2Proof.Machine

/-- RESET(cfg) (spec 70_reset_and_hazards.md R250, 10_state.md R35): accepted in every status. -/
def opReset (cfg : Compat) (s : State) : Host.Outcome State Fault Refusal :=
  if cfg.fontStart.toNat ≤ 0x1B0 then .next (s.afterReset cfg) else .refused (.fontStartOutOfRange cfg.fontStart)

/-- The loads' shared copy: the bytes, or a load's OutOfBounds (log entry 15). -/
def copyIn (s : State) (a : Nat) (bytes : List Byte) : State :=
  match storeBytes s.mem a bytes with
  | .ok m => s.setMem m
  | .error e => s.raiseLoad .outOfBounds e

/-- LOAD_FONT(bytes) (spec 70_reset_and_hazards.md R251). -/
def opLoadFont (bytes : List Byte) (s : State) : Host.Outcome State Fault Refusal :=
  if s.accepts .loadFont then
    .next (if bytes.length ≠ 80 then s.raiseLoad .fontSizeInvalid bytes.length
      else copyIn s s.cfg.fontStart.toNat bytes)
  else s.notAccepted .loadFont

/-- LOAD_PROGRAM(bytes) (spec 70_reset_and_hazards.md R253). -/
def opLoadProgram (bytes : List Byte) (s : State) : Host.Outcome State Fault Refusal :=
  if s.accepts .loadProgram then
    .next (if bytes.length > 4096 - 0x200 then s.raiseLoad .programTooLarge bytes.length
      else copyIn s 0x200 bytes)
  else s.notAccepted .loadProgram

/-- TICK (spec 45_timer_input.md R200). -/
def opTick (s : State) : Host.Outcome State Fault Refusal :=
  if s.accepts .tick then
    .next ((s.setDelay (if s.dt.toNat > 0 then s.dt - 1 else s.dt)).setSound (if s.st.toNat > 0 then s.st - 1 else s.st))
  else s.notAccepted .tick

/-- FETCH's first line: the first FETCH ends the loading phase (spec 40_fetch_decode.md R101). -/
def State.startRun (s : State) : State := { s with status := .run }

/-- FETCH's writes once both bytes are read (spec 40_fetch_decode.md R101). -/
def State.latch (s : State) (w : Word) : State :=
  { s with irWord := w, irAddr := s.pc, irValid := true, pc := s.pc + 2 }

/-- FETCH's reads: the range is checked, then the high byte and the low byte (spec 40_fetch_decode.md R101). -/
def fetchWord (m : Memory) (a : Nat) : Except Nat Word :=
  (checkRange a 2).bind fun _ => (memRead m a).bind fun hi => (memRead m (a + 1)).map fun lo => wordOfBytes hi lo

/-- FETCH (spec 40_fetch_decode.md R101, R102). -/
def opFetch (s : State) : Host.Outcome State Fault Refusal :=
  if s.accepts .fetch then
    .next (match fetchWord s.mem s.pc.toNat with
      | .ok w => s.startRun.latch w
      | .error e => s.startRun.raiseFetch .outOfBounds e)
  else s.notAccepted .fetch

/-- EXECUTE consumes the latch and samples the inputs (spec 40_fetch_decode.md R104, R111). -/
def State.beginExecute (s : State) (inp : Inputs) : State := { s with irValid := false, inputs := inp }

/-- EXECUTE(keys, rnd, pick) (spec 40_fetch_decode.md R104, R105). -/
def opExecute (inp : Inputs) (s : State) : Host.Outcome State Fault Refusal :=
  if s.accepts .execute then
    match decode s.irWord with
    | .ok i => exec i (s.beginExecute inp)
    | .error _ => .next ((s.beginExecute inp).raise .decodeError none)
  else s.notAccepted .execute

/-- Reading the outputs changes no state (spec 40_fetch_decode.md R100, 44_framebuffer_sprite.md R188). -/
def opReadOutputs (s : State) : Host.Outcome State Fault Refusal := .next s

/-- A requested operation. -/
def perform (r : Request) (s : State) : Host.Outcome State Fault Refusal :=
  match r with
  | .reset cfg => opReset cfg s
  | .loadFont bytes => opLoadFont bytes s
  | .loadProgram bytes => opLoadProgram bytes s
  | .fetch => opFetch s
  | .execute inp => opExecute inp s
  | .tick => opTick s
  | .readOutputs => opReadOutputs s

/-- The rest of the host's cycle (spec 40_fetch_decode.md R110): a FETCH unless a word is already latched, then an EXECUTE
unless the FETCH faulted (log entries 11, 12). -/
def cycle (inp : Inputs) (s : State) : Host.Outcome State Fault Refusal :=
  if s.irValid then opExecute inp s
  else
    match opFetch s with
    | .next s' => if s'.status = .faulted then .next s' else opExecute inp s'
    | stopped => stopped

/-- Take the oldest pending request off the list. -/
def State.takeRequest (s : State) (rest : List Request) : State := { s with requests := rest }

/-- Count one draw of free inputs (log entry 2). -/
def State.countDraw (s : State) : State := { s with draws := s.draws + 1 }

/-- The bytes of a word at pc, as LOAD_PROGRAM would have put them there, with nothing pending before the next FETCH
(log entry 8). -/
def placeWord (s : State) (w : Word) : State :=
  match storeBytes s.mem s.pc.toNat (bytesOfWord w) with
  | .ok m => { s with mem := m, irValid := false, requests := [] }
  | .error _ => s

/-- The default font (spec 70_reset_and_hazards.md R252), glyphs 0..7 and then 8..F. -/
def defaultFont : List Byte :=
  [0xF0, 0x90, 0x90, 0x90, 0xF0, 0x20, 0x60, 0x20, 0x20, 0x70, 0xF0, 0x10, 0xF0, 0x80, 0xF0, 0xF0, 0x10, 0xF0, 0x10, 0xF0,
   0x90, 0x90, 0xF0, 0x10, 0x10, 0xF0, 0x80, 0xF0, 0x10, 0xF0, 0xF0, 0x80, 0xF0, 0x90, 0xF0, 0xF0, 0x10, 0x20, 0x40, 0x40]
  ++
  [0xF0, 0x90, 0xF0, 0x90, 0xF0, 0xF0, 0x90, 0xF0, 0x10, 0xF0, 0xF0, 0x90, 0xF0, 0x90, 0x90, 0xE0, 0x90, 0xE0, 0x90, 0xE0,
   0xF0, 0x80, 0x80, 0x80, 0xF0, 0xE0, 0x90, 0x90, 0x90, 0xE0, 0xF0, 0x80, 0xF0, 0x80, 0xF0, 0xF0, 0x80, 0xF0, 0x80, 0x80]

end Sys2Proof.Machine
end

