-- ==== Sys2Proof/Machine/Step.lean ====
section
/-! DEFINITION. One step: the oldest pending request of the host, or, with none pending, one cycle with free inputs. -/

namespace Sys2Proof.Machine

/-- One step of the machine under its host (spec 40_fetch_decode.md R100, R110; log entries 1, 2). -/
def step (s : State) : Host.Outcome State Fault Refusal :=
  match s.requests with
  | [] => cycle (Config.freeInputs s.draws) s.countDraw
  | r :: rest => perform r (s.takeRequest rest)

/-- `s` with a table word stored where `step` fetches next (log entry 8). -/
def State.withFetchWord (s : State) (nbits w : Nat) : State := placeWord s (BitVec.ofNat 16 (w % 2 ^ nbits))

end Sys2Proof.Machine
end

