-- ==== Sys2Proof/Safety.lean ====
section
/-! DEFINITION. What every state of a run satisfies (`Invariant`), and what a safe run is. -/

namespace Sys2Proof.Machine

/-- The machine's invariant. It rules out only states that no run from RESET reaches. -/
structure Invariant (s : State) : Prop where
  /-- Memory is in its canonical form (spec 20_memory.md R50). -/
  memory : s.mem.wf
  /-- The configuration is one RESET accepts (spec 10_state.md R34, R35). -/
  config : s.cfg.fontStart.toNat ≤ 0x1B0
  /-- The exit flag is never set (spec 10_state.md R39). -/
  notExited : s.exited = false
  /-- There is a fault record exactly in FAULTED (spec 10_state.md R37). -/
  record : s.status = .faulted ↔ s.fault.isSome = true
  /-- A latched word waits for EXECUTE in RUN; it is the word memory still holds at the address it was fetched from, and pc
  is past it (spec 10_state.md R24, R36). -/
  latch : s.irValid = true →
    s.status = .run ∧ s.pc = s.irAddr + 2 ∧ fetchWord s.mem s.irAddr.toNat = .ok s.irWord
  /-- pc never reaches 65534, so its arithmetic never wraps: the highest value is BNNN's 0xFF + 0xFFF
  (spec 41_flow_stack.md R127). -/
  pcBound : s.pc.toNat ≤ 0x10FE
  /-- A held return address is the address after a call (spec 41_flow_stack.md R120). -/
  returnAddresses : ∀ k : Fin 32, k.val < s.sp.val → 2 ≤ (s.stack.get k).toNat ∧ (s.stack.get k).toNat ≤ 0x1000
  /-- Before the first FETCH nothing has moved pc or called (spec 70_reset_and_hazards.md R254). -/
  loading : s.status = .load → s.pc = 0x200 ∧ s.sp = 0

/-- The machine has not faulted (spec 10_state.md R37). -/
abbrev State.ok (s : State) : Prop := s.status ≠ .faulted

/-- A SAFE RUN of `k` steps: every step has a next state, and the last one has not faulted
(spec 70_reset_and_hazards.md R260). -/
def SafeRun (k : Nat) (s : State) : Prop := ∃ t, core.run k s = .next t ∧ State.ok t

end Sys2Proof.Machine
end

