-- ==== Sys2Proof/Certificates/Slice0/Obligations.lean ====
section
/-! DEFINITION. The statements for the provers. Each docstring says which rule of the spec it states. A statement of the
form "t is s with some fields of t" is also its instruction's frame: every field not named is unchanged. A clause
`decode (form…) = .ok …` is the rule's encoding, for every value of its fields. -/

namespace Sys2Proof.Machine.Claim

/-- The state a fault leaves (spec 60_exceptions.md R229): the record, FAULTED, no word latched, all else as it was. -/
def recorded (s : State) (r : FaultRecord) : State := { s with fault := some r, status := .faulted, irValid := false }

/-- The state a faulting EXECUTE leaves: the record has the latch's address and word (spec 60_exceptions.md R228). -/
def faulted (s : State) (kind : FaultKind) (info : Option Nat) : State :=
  recorded s ⟨kind, some s.irAddr, some s.irWord, info⟩

/-- The state in which EXECUTE performs the instruction FETCH read as `w` at `s.pc`, with the inputs `inp`
(spec 40_fetch_decode.md R101, R104, R111). -/
def executing (s : State) (w : Word) (inp : Inputs) : State :=
  { s with status := .run, irWord := w, irAddr := s.pc, irValid := false, pc := s.pc + 2, inputs := inp }

/-- The word in memory at pc, high byte first (spec 30_encoding.md R80). -/
def wordAtPc (s : State) : Word := wordOfBytes (s.mem.byteAt s.pc.toNat) (s.mem.byteAt (s.pc.toNat + 1))

/-- Every byte outside the `len` addresses from `a` on reads as before. -/
def memoryOutside (s t : State) (a len : Nat) : Prop :=
  ∀ c, c < a ∨ a + len ≤ c → t.mem.byteAt c = s.mem.byteAt c

/-- Whether the sprite of `n` rows at memory address `a`, drawn at column `x0` and row `y0`, inverts pixel (c, r)
(spec 44_framebuffer_sprite.md R181-R184): pixel j of sprite row k from the left is bit 7 - j of the byte at `a + k`. -/
def spriteBit (s : State) (a x0 y0 n c r : Nat) : Bool :=
  decide (y0 ≤ r ∧ r < y0 + n ∧ x0 ≤ c ∧ c < x0 + 8) && (s.mem.byteAt (a + (r - y0))).getLsbD (7 - (c - x0))

/-- The one fault an instruction raises, with its info, or none (the table of spec 60_exceptions.md R220). -/
def faultOf (i : Instr) (s : State) : Option (FaultKind × Nat) :=
  match i with
  | .ret => if s.sp.val = 0 then some (.stackUnderflow, 0) else none
  | .call _ => if s.sp.val = 32 then some (.stackOverflow, 32) else none
  | .storeDecimal _ => if 4096 < s.index.toNat + 3 then some (.outOfBounds, max s.index.toNat 4096) else none
  | .storeRegs x | .loadRegs x =>
    if 4096 < s.index.toNat + (x.val + 1) then some (.outOfBounds, max s.index.toNat 4096) else none
  | .draw _ _ n =>
    if 0 < n.val ∧ 4096 < s.index.toNat + n.val then some (.outOfBounds, max s.index.toNat 4096) else none
  | .skipKeyHeld x | .skipKeyNotHeld x =>
    if 16 ≤ (s.reg x).toNat then some (.invalidKey, (s.reg x).toNat) else none
  | _ => none

/-- The registers an instruction may write (the table of spec 10_state.md R22). -/
def writesReg (i : Instr) (s : State) (r : Reg) : Bool :=
  match i with
  | .loadImm x _ | .addImm x _ | .copyReg x _ | .orReg x _ | .andReg x _ | .xorReg x _ | .random x _ | .readDelay x =>
    r == x
  | .addReg x _ | .subReg x _ | .shiftRight x _ | .revSubReg x _ | .shiftLeft x _ => r == x || r == 15
  | .waitKey x => r == x && (List.finRange 16).any (keyHeld s.inputs)
  | .addIndex _ => r == 15 && s.cfg.indexAddCarry
  | .loadRegs x => decide (r ≤ x)
  | _ => false

/-- pc after an EXECUTE that does not fault (the table of spec 10_state.md R25); `s.pc` is already past the instruction. -/
def pcAfter (i : Instr) (s : State) : Word :=
  match i with
  | .jump nnn | .call nnn => nnn.setWidth 16
  | .ret => s.stack.toList.getD (s.sp.val - 1) 0
  | .jumpOffset x nnn => (s.reg (if s.cfg.jumpOffsetLegacy then 0 else x)).setWidth 16 + nnn.setWidth 16
  | .skipEqImm x nn => if s.reg x = nn then s.pc + 2 else s.pc
  | .skipNeImm x nn => if s.reg x = nn then s.pc else s.pc + 2
  | .skipEqReg x y => if s.reg x = s.reg y then s.pc + 2 else s.pc
  | .skipNeReg x y => if s.reg x = s.reg y then s.pc else s.pc + 2
  | .skipKeyHeld x => if ∃ k : Key, (s.reg x).toNat = k.val ∧ keyHeld s.inputs k = true then s.pc + 2 else s.pc
  | .skipKeyNotHeld x => if ∃ k : Key, (s.reg x).toNat = k.val ∧ keyHeld s.inputs k = true then s.pc else s.pc + 2
  | .waitKey _ => if ∃ k : Key, keyHeld s.inputs k = true then s.pc else s.pc - 2
  | _ => s.pc

/-- The instructions that read the inputs of an EXECUTE (spec 40_fetch_decode.md R111). -/
def readsInputs : Instr → Bool
  | .random _ _ | .skipKeyHeld _ | .skipKeyNotHeld _ | .waitKey _ => true
  | _ => false

/-- When an operation is accepted and not refused (spec 40_fetch_decode.md R100, 70_reset_and_hazards.md R250). -/
def accepted (s : State) : Request → Prop
  | .reset cfg => cfg.fontStart.toNat ≤ 0x1B0
  | .loadFont _ | .loadProgram _ => s.status = .load
  | .fetch => s.status ≠ .faulted ∧ s.irValid = false
  | .execute _ => s.status = .run ∧ s.irValid = true
  | .tick => s.status ≠ .faulted
  | .readOutputs => True

end Sys2Proof.Machine.Claim

open Sys2Proof Sys2Proof.Machine Sys2Proof.Machine.Claim

/-! ### Encoding -/

/-- Words written out from the patterns of spec 30_encoding.md R83 and R91 decode to the instructions they stand for;
one word of each rejecting family is rejected. -/
def Obligations.WordsOfTheSpecDecode : Prop :=
  decode 0x00E0 = .ok .clearScreen ∧ decode 0x00EE = .ok .ret ∧ decode 0x1234 = .ok (.jump 0x234) ∧
  decode 0x6A5C = .ok (.loadImm 0xA 0x5C) ∧ decode 0x8124 = .ok (.addReg 1 2) ∧ decode 0xB2FE = .ok (.jumpOffset 2 0x2FE) ∧
  decode 0xD013 = .ok (.draw 0 1 3) ∧ decode 0xE19E = .ok (.skipKeyHeld 1) ∧ decode 0xF265 = .ok (.loadRegs 2) ∧
  decode 0x0123 = .error .family0 ∧ decode 0x5121 = .error .family5 ∧ decode 0x8008 = .error .family8 ∧
  decode 0x9AB3 = .error .family9 ∧ decode 0xE09F = .error .familyE ∧ decode 0xF108 = .error .familyF

/-- Every well-formed instruction, with every operand at every value its fields admit, is what its word decodes to
(spec 30_encoding.md R81, R83, R85-R91). -/
def Obligations.DecodeInvertsEncode : Prop :=
  ∀ i : Instr, i.wf = true → decode (encode i) = .ok i

/-- A word that decodes is the word of the instruction it decodes to, which is well formed: no bit of a legal word is
ignored (spec 30_encoding.md R83, R91). -/
def Obligations.EncodeInvertsDecode : Prop :=
  ∀ (w : Word) (i : Instr), decode w = .ok i → i.wf = true ∧ encode i = w

/-- The two-level dispatch of R85-R90 is the match/mask table of R91: a word lies in a row exactly when it decodes to an
instruction of that row, and a legal word lies in exactly one row (spec 30_encoding.md R91). -/
def Obligations.DecodeAgreesWithMatchMaskTable : Prop :=
  ∀ w : Word,
    (∀ row ∈ opcodeRows, row.Matches w ↔ ∃ i, decode w = .ok i ∧ opcodeRow i = row) ∧
    (∀ row ∈ opcodeRows, ∀ row' ∈ opcodeRows, row.Matches w → row'.Matches w → row = row') ∧
    (∀ i, decode w = .ok i → opcodeRow i ∈ opcodeRows)

/-! ### Fetch, dispatch and the step -/

/-- FETCH reads the big-endian word at pc, latches it with its address, sets RUN and advances pc by 2 modulo 2^16 (spec
40_fetch_decode.md R101). When the two bytes are not both in memory it raises OutOfBounds with pc as the record's address and
the lowest address outside as its info, nothing is latched and pc stays (R102, the spec's decision D3; log entry 16). -/
def Obligations.FetchLatchesWordOrFaults : Prop :=
  ∀ s : State, s.status ≠ .faulted → s.irValid = false →
    (s.pc.toNat + 1 < 4096 →
      opFetch s = .next { s with status := .run, irWord := wordAtPc s, irAddr := s.pc, irValid := true, pc := s.pc + 2 }) ∧
    (4096 ≤ s.pc.toNat + 1 →
      opFetch s = .next (recorded s ⟨.outOfBounds, some s.pc, none, some (max s.pc.toNat 4096)⟩))

/-- With no request pending and no word latched, a step is one cycle: it runs exactly the instruction that the bytes at pc
decode to, in the state FETCH leaves, with inputs nothing constrains (spec 40_fetch_decode.md R101, R104, R110; the model's
log entries 1 and 2). -/
def Obligations.StepRunsDecodedInstruction : Prop :=
  ∀ (s : State) (i : Instr), s.requests = [] → s.status ≠ .faulted → s.irValid = false → s.pc.toNat + 1 < 4096 →
    decode (wordAtPc s) = .ok i →
    step s = exec i (executing { s with draws := s.draws + 1 } (wordAtPc s) (Config.freeInputs s.draws))

/-- A requested FETCH and a requested EXECUTE, two steps, run the instruction at pc with the requested inputs
(spec 40_fetch_decode.md R100, R101, R104; log entry 1). -/
def Obligations.RequestedFetchThenExecuteRunsInstruction : Prop :=
  ∀ (s : State) (i : Instr) (inp : Inputs) (rest : List Request), s.requests = .fetch :: .execute inp :: rest →
    s.status ≠ .faulted → s.irValid = false → s.pc.toNat + 1 < 4096 → decode (wordAtPc s) = .ok i →
    ∃ u, step s = .next u ∧ step u = exec i (executing { s with requests := rest } (wordAtPc s) inp)

/-- The word the host's harness places is the word the next step runs; only the two bytes at pc change
(the model's log entry 8). -/
def Obligations.PlacedWordRunsNext : Prop :=
  ∀ (s : State) (w : Nat) (i : Instr), s.mem.wf → s.status ≠ .faulted → s.pc.toNat + 1 < 4096 →
    decodeTableWord 16 w = some i →
    step (s.withFetchWord 16 w) =
      exec i (executing { s.withFetchWord 16 w with draws := s.draws + 1 } (BitVec.ofNat 16 w) (Config.freeInputs s.draws)) ∧
    memoryOutside s (s.withFetchWord 16 w) s.pc.toNat 2 ∧
    s.withFetchWord 16 w = { s with mem := (s.withFetchWord 16 w).mem, irValid := false, requests := [] }

/-- EXECUTE of a word that no row of the match/mask table matches raises DecodeError with the faulting address and the raw
word (spec 60_exceptions.md R221). That the address is ir_addr is the spec's decision D34 (40_fetch_decode.md R105), and that
nothing else changes is its decision D19 (60_exceptions.md R228-R230); log entry 16. -/
def Obligations.IllegalWordRaisesDecodeError : Prop :=
  ∀ (s : State) (inp : Inputs), s.status = .run → s.irValid = true → (∀ row ∈ opcodeRows, ¬ row.Matches s.irWord) →
    opExecute inp s = .next (faulted { s with inputs := inp } .decodeError none)

/-! ### Control flow and the call stack -/

/-- R120 whole: 00EE pops the stack into pc; with no entry it raises StackUnderflow and changes nothing else. -/
def Obligations.ReturnPopsStackIntoPc : Prop :=
  decode 0x00EE = .ok .ret ∧
  ∀ s : State,
    (∀ k : Fin 32, s.sp.val = k.val + 1 →
      ∃ t, exec .ret s = .next t ∧ t.pc = s.stack.get k ∧ t.sp.val = k.val ∧ t = { s with pc := t.pc, sp := t.sp }) ∧
    (s.sp.val = 0 → exec .ret s = .next (faulted s .stackUnderflow (some 0)))

/-- R121: 1NNN sets pc to nnn and changes nothing else. -/
def Obligations.JumpSetsPc : Prop :=
  ∀ (nnn : Addr12) (s : State),
    decode (formNNN 0x1 nnn) = .ok (.jump nnn) ∧
    ∃ t, exec (.jump nnn) s = .next t ∧ t.pc.toNat = nnn.toNat ∧ t = { s with pc := t.pc }

/-- R122 whole: 2NNN pushes pc, which FETCH has advanced, and jumps to nnn; with 32 entries it raises StackOverflow and
changes nothing else. -/
def Obligations.CallPushesPcAndJumps : Prop :=
  ∀ (nnn : Addr12) (s : State),
    decode (formNNN 0x2 nnn) = .ok (.call nnn) ∧
    (∀ k : Fin 32, s.sp.val = k.val →
      ∃ t, exec (.call nnn) s = .next t ∧ t.pc.toNat = nnn.toNat ∧ t.sp.val = k.val + 1 ∧ t.stack.get k = s.pc ∧
        (∀ j : Fin 32, j ≠ k → t.stack.get j = s.stack.get j) ∧
        t = { s with pc := t.pc, sp := t.sp, stack := t.stack }) ∧
    (s.sp.val = 32 → exec (.call nnn) s = .next (faulted s .stackOverflow (some 32)))

/-- A return in any later state that holds the call stack as a call left it comes back behind the call, at the depth before
it (spec 10_state.md R27, 41_flow_stack.md R120, R122). -/
def Obligations.ReturnUndoesCall : Prop :=
  ∀ (nnn : Addr12) (s u : State), s.sp.val < 32 →
    ∃ t, exec (.call nnn) s = .next t ∧
      (u.stack = t.stack → u.sp = t.sp → ∃ v, exec .ret u = .next v ∧ v.pc = s.pc ∧ v.sp = s.sp)

/-- R123 and R124: 3XNN skips the next word when Vx = nn, 4XNN when Vx differs; nothing but pc changes. -/
def Obligations.SkipComparesRegisterWithImmediate : Prop :=
  ∀ (x : Reg) (nn : Byte) (s : State),
    decode (formXNN 0x3 x nn) = .ok (.skipEqImm x nn) ∧ decode (formXNN 0x4 x nn) = .ok (.skipNeImm x nn) ∧
    (∃ t, exec (.skipEqImm x nn) s = .next t ∧ (s.reg x = nn → t.pc = s.pc + 2) ∧ (s.reg x ≠ nn → t.pc = s.pc) ∧
      t = { s with pc := t.pc }) ∧
    (∃ t, exec (.skipNeImm x nn) s = .next t ∧ (s.reg x ≠ nn → t.pc = s.pc + 2) ∧ (s.reg x = nn → t.pc = s.pc) ∧
      t = { s with pc := t.pc })

/-- R125 and R126 whole: 5XY0 skips the next word when Vx = Vy, 9XY0 when they differ; nothing but pc changes; the words
5XYn and 9XYn with n other than 0 are no instruction. -/
def Obligations.SkipComparesTwoRegisters : Prop :=
  (∀ (x y : Reg) (s : State),
    decode (formXYN 0x5 x y 0) = .ok (.skipEqReg x y) ∧ decode (formXYN 0x9 x y 0) = .ok (.skipNeReg x y) ∧
    (∃ t, exec (.skipEqReg x y) s = .next t ∧ (s.reg x = s.reg y → t.pc = s.pc + 2) ∧ (s.reg x ≠ s.reg y → t.pc = s.pc) ∧
      t = { s with pc := t.pc }) ∧
    (∃ t, exec (.skipNeReg x y) s = .next t ∧ (s.reg x ≠ s.reg y → t.pc = s.pc + 2) ∧ (s.reg x = s.reg y → t.pc = s.pc) ∧
      t = { s with pc := t.pc })) ∧
  ∀ w : Word, w.extractLsb' 0 4 ≠ 0 →
    (w.extractLsb' 12 4 = 5 → decode w = .error .family5) ∧ (w.extractLsb' 12 4 = 9 → decode w = .error .family9)

/-- R127: BNNN adds nnn to V0 in legacy mode and to the register that nnn's top four bits name otherwise, exactly (the sum
is below 2^16); nothing but pc changes. -/
def Obligations.JumpOffsetAddsSelectedRegister : Prop :=
  ∀ (x : Reg) (nnn : Addr12) (s : State), x.val = nnn.toNat / 256 →
    decode (formNNN 0xB nnn) = .ok (.jumpOffset x nnn) ∧
    ∃ t, exec (.jumpOffset x nnn) s = .next t ∧
      (s.cfg.jumpOffsetLegacy = true → t.pc.toNat = (s.reg 0).toNat + nnn.toNat) ∧
      (s.cfg.jumpOffsetLegacy = false → t.pc.toNat = (s.reg x).toNat + nnn.toNat) ∧ t = { s with pc := t.pc }

/-! ### The register ALU -/

/-- R141, R142 and R143: 6XNN loads nn, 7XNN adds nn modulo 256 and writes no flag, 8XY0 copies Vy; no other register
and nothing else changes. -/
def Obligations.LoadAddImmediateAndCopy : Prop :=
  ∀ (x y : Reg) (nn : Byte) (s : State),
    decode (formXNN 0x6 x nn) = .ok (.loadImm x nn) ∧ decode (formXNN 0x7 x nn) = .ok (.addImm x nn) ∧
    decode (formXYN 0x8 x y 0x0) = .ok (.copyReg x y) ∧
    (∃ t, exec (.loadImm x nn) s = .next t ∧ t.reg x = nn ∧ (∀ r, r ≠ x → t.reg r = s.reg r) ∧ t = { s with v := t.v }) ∧
    (∃ t, exec (.addImm x nn) s = .next t ∧ (t.reg x).toNat = ((s.reg x).toNat + nn.toNat) % 256 ∧
      (∀ r, r ≠ x → t.reg r = s.reg r) ∧ t = { s with v := t.v }) ∧
    (∃ t, exec (.copyReg x y) s = .next t ∧ t.reg x = s.reg y ∧ (∀ r, r ≠ x → t.reg r = s.reg r) ∧ t = { s with v := t.v })

/-- R144, R145 and R146: 8XY1, 8XY2 and 8XY3 combine Vx and Vy bit by bit; VF is not written unless it is Vx. -/
def Obligations.LogicIsBitwise : Prop :=
  ∀ (x y : Reg) (s : State),
    decode (formXYN 0x8 x y 0x1) = .ok (.orReg x y) ∧ decode (formXYN 0x8 x y 0x2) = .ok (.andReg x y) ∧
    decode (formXYN 0x8 x y 0x3) = .ok (.xorReg x y) ∧
    (∃ t, exec (.orReg x y) s = .next t ∧ (∀ k, k < 8 → (t.reg x).getLsbD k = ((s.reg x).getLsbD k || (s.reg y).getLsbD k)) ∧
      (∀ r, r ≠ x → t.reg r = s.reg r) ∧ t = { s with v := t.v }) ∧
    (∃ t, exec (.andReg x y) s = .next t ∧ (∀ k, k < 8 → (t.reg x).getLsbD k = ((s.reg x).getLsbD k && (s.reg y).getLsbD k)) ∧
      (∀ r, r ≠ x → t.reg r = s.reg r) ∧ t = { s with v := t.v }) ∧
    (∃ t, exec (.xorReg x y) s = .next t ∧ (∀ k, k < 8 → (t.reg x).getLsbD k = ((s.reg x).getLsbD k ^^ (s.reg y).getLsbD k)) ∧
      (∀ r, r ≠ x → t.reg r = s.reg r) ∧ t = { s with v := t.v })

/-- R147: 8XY4 leaves the sum modulo 256 in Vx and the carry in VF; with x = 15 VF ends as the carry; operands are read
first, so y = 15 and x = y use the old values; nothing else changes. -/
def Obligations.AddSetsCarry : Prop :=
  ∀ (x y : Reg) (s : State),
    decode (formXYN 0x8 x y 0x4) = .ok (.addReg x y) ∧
    ∃ t, exec (.addReg x y) s = .next t ∧
      (x ≠ 15 → (t.reg x).toNat = ((s.reg x).toNat + (s.reg y).toNat) % 256) ∧
      (255 < (s.reg x).toNat + (s.reg y).toNat → t.reg 15 = 1) ∧
      ((s.reg x).toNat + (s.reg y).toNat ≤ 255 → t.reg 15 = 0) ∧
      (∀ r, r ≠ x → r ≠ 15 → t.reg r = s.reg r) ∧ t = { s with v := t.v }

/-- R148 and R150: 8XY5 leaves Vx - Vy, 8XY7 Vy - Vx, modulo 256 in Vx, and VF is 0 exactly on a borrow, equal operands
being none; with x = 15 VF ends as the flag; nothing else changes. -/
def Obligations.SubtractSetsNotBorrow : Prop :=
  ∀ (x y : Reg) (s : State),
    decode (formXYN 0x8 x y 0x5) = .ok (.subReg x y) ∧ decode (formXYN 0x8 x y 0x7) = .ok (.revSubReg x y) ∧
    (∃ t, exec (.subReg x y) s = .next t ∧
      (x ≠ 15 → ((t.reg x).toNat : Int) = ((s.reg x).toNat - (s.reg y).toNat : Int) % 256) ∧
      ((s.reg x).toNat < (s.reg y).toNat → t.reg 15 = 0) ∧ ((s.reg y).toNat ≤ (s.reg x).toNat → t.reg 15 = 1) ∧
      (∀ r, r ≠ x → r ≠ 15 → t.reg r = s.reg r) ∧ t = { s with v := t.v }) ∧
    (∃ t, exec (.revSubReg x y) s = .next t ∧
      (x ≠ 15 → ((t.reg x).toNat : Int) = ((s.reg y).toNat - (s.reg x).toNat : Int) % 256) ∧
      ((s.reg y).toNat < (s.reg x).toNat → t.reg 15 = 0) ∧ ((s.reg x).toNat ≤ (s.reg y).toNat → t.reg 15 = 1) ∧
      (∀ r, r ≠ x → r ≠ 15 → t.reg r = s.reg r) ∧ t = { s with v := t.v })

/-- R149 and R151: 8XY6 and 8XYE shift the source register by one and put the bit shifted out in VF. The source is Vy, or Vx
when `shift_vx_in_place` is set (the spec's decision D8). With x = 15 VF ends as that bit; nothing else changes. -/
def Obligations.ShiftsMoveOneBitIntoVF : Prop :=
  ∀ (x y z : Reg) (s : State), (s.cfg.shiftVxInPlace = true → z = x) → (s.cfg.shiftVxInPlace = false → z = y) →
    (∃ t, exec (.shiftRight x y) s = .next t ∧ (x ≠ 15 → (t.reg x).toNat = (s.reg z).toNat / 2) ∧
      (t.reg 15).toNat = (s.reg z).toNat % 2 ∧ (∀ r, r ≠ x → r ≠ 15 → t.reg r = s.reg r) ∧ t = { s with v := t.v }) ∧
    (∃ t, exec (.shiftLeft x y) s = .next t ∧ (x ≠ 15 → (t.reg x).toNat = 2 * (s.reg z).toNat % 256) ∧
      (t.reg 15).toNat = (s.reg z).toNat / 128 ∧ (∀ r, r ≠ x → r ≠ 15 → t.reg r = s.reg r) ∧ t = { s with v := t.v })

/-- R152: CXNN leaves nn AND the random byte of this EXECUTE in Vx, whatever that byte is; nothing else changes. -/
def Obligations.RandomIsMasked : Prop :=
  ∀ (x : Reg) (nn : Byte) (s : State),
    decode (formXNN 0xC x nn) = .ok (.random x nn) ∧
    ∃ t, exec (.random x nn) s = .next t ∧
      (∀ k, k < 8 → (t.reg x).getLsbD k = (nn.getLsbD k && s.inputs.rnd.getLsbD k)) ∧
      (∀ r, r ≠ x → t.reg r = s.reg r) ∧ t = { s with v := t.v }

/-- After each of the five flag instructions VF is 0 or 1, for every pair of registers, VF itself among them
(spec 42_register_alu.md R140, the spec's decision D7). -/
def Obligations.FlagIsZeroOrOne : Prop :=
  ∀ (x y : Reg) (s t : State) (i : Instr),
    i ∈ [Instr.addReg x y, .subReg x y, .shiftRight x y, .revSubReg x y, .shiftLeft x y] → exec i s = .next t →
    t.reg 15 = 0 ∨ t.reg 15 = 1

/-! ### The Index register and memory transfers -/

/-- R160 and R162: ANNN loads nnn into I; FX29 points I at font_start plus five times the whole byte Vx, modulo 2^16; nothing
else changes. -/
def Obligations.IndexLoadsAddressOrGlyph : Prop :=
  (∀ (nnn : Addr12) (s : State),
    decode (formNNN 0xA nnn) = .ok (.loadIndex nnn) ∧
    ∃ t, exec (.loadIndex nnn) s = .next t ∧ t.index.toNat = nnn.toNat ∧ t = { s with index := t.index }) ∧
  ∀ (x : Reg) (s : State),
    decode (formXNN 0xF x 0x29) = .ok (.glyphAddr x) ∧
    ∃ t, exec (.glyphAddr x) s = .next t ∧ t.index.toNat = (s.cfg.fontStart.toNat + 5 * (s.reg x).toNat) % 65536 ∧
      t = { s with index := t.index }

/-- R161: FX1E adds Vx to I modulo 2^16, faults never, and writes VF only with `index_add_carry`: 1 exactly when the exact
sum of the old I and the old Vx reaches 0x1000 (the spec's decision D6). -/
def Obligations.AddIndexWrapsAndFlags : Prop :=
  ∀ (x : Reg) (s : State),
    ∃ t, exec (.addIndex x) s = .next t ∧ t.index.toNat = (s.index.toNat + (s.reg x).toNat) % 65536 ∧
      (s.cfg.indexAddCarry = false → t.reg 15 = s.reg 15) ∧
      (s.cfg.indexAddCarry = true → 0x1000 ≤ s.index.toNat + (s.reg x).toNat → t.reg 15 = 1) ∧
      (s.cfg.indexAddCarry = true → s.index.toNat + (s.reg x).toNat < 0x1000 → t.reg 15 = 0) ∧
      (∀ r, r ≠ 15 → t.reg r = s.reg r) ∧ t = { s with index := t.index, v := t.v }

/-- R163 whole: FX33 stores the hundreds, tens and units of Vx at I, I + 1, I + 2 and changes nothing else; when a byte of
these is at or beyond 4096 it raises OutOfBounds with the lowest such address and writes nothing. -/
def Obligations.StoreDecimalWritesThreeDigits : Prop :=
  ∀ (x : Reg) (s : State), s.mem.wf →
    decode (formXNN 0xF x 0x33) = .ok (.storeDecimal x) ∧
    (s.index.toNat + 3 ≤ 4096 →
      ∃ t, exec (.storeDecimal x) s = .next t ∧
        (t.mem.byteAt s.index.toNat).toNat = (s.reg x).toNat / 100 ∧
        (t.mem.byteAt (s.index.toNat + 1)).toNat = (s.reg x).toNat / 10 % 10 ∧
        (t.mem.byteAt (s.index.toNat + 2)).toNat = (s.reg x).toNat % 10 ∧
        memoryOutside s t s.index.toNat 3 ∧ t.mem.wf ∧ t = { s with mem := t.mem }) ∧
    (4096 < s.index.toNat + 3 →
      exec (.storeDecimal x) s = .next (faulted s .outOfBounds (some (max s.index.toNat 4096))))

/-- R164 whole: FX55 stores V0..Vx at I..I+x and changes no other byte; I advances by x + 1 in legacy mode and stays
otherwise; when I + x is at or beyond 4096 it raises OutOfBounds with the lowest such address, and no byte is written and I
stays. -/
def Obligations.StoreRegistersWritesRange : Prop :=
  ∀ (x : Reg) (s : State), s.mem.wf →
    decode (formXNN 0xF x 0x55) = .ok (.storeRegs x) ∧
    (s.index.toNat + x.val < 4096 →
      ∃ t, exec (.storeRegs x) s = .next t ∧ (∀ r, r ≤ x → t.mem.byteAt (s.index.toNat + r.val) = s.reg r) ∧
        memoryOutside s t s.index.toNat (x.val + 1) ∧
        (s.cfg.registerSaveLegacy = true → t.index.toNat = s.index.toNat + x.val + 1) ∧
        (s.cfg.registerSaveLegacy = false → t.index = s.index) ∧ t.mem.wf ∧
        t = { s with mem := t.mem, index := t.index }) ∧
    (4096 ≤ s.index.toNat + x.val →
      exec (.storeRegs x) s = .next (faulted s .outOfBounds (some (max s.index.toNat 4096))))

/-- R165 whole: FX65 loads V0..Vx from I..I+x and no other register; I as for FX55; when I + x is at or beyond 4096 it raises
OutOfBounds with the lowest such address, and no register is written and I stays. -/
def Obligations.LoadRegistersReadsRange : Prop :=
  ∀ (x : Reg) (s : State),
    decode (formXNN 0xF x 0x65) = .ok (.loadRegs x) ∧
    (s.index.toNat + x.val < 4096 →
      ∃ t, exec (.loadRegs x) s = .next t ∧ (∀ r, r ≤ x → t.reg r = s.mem.byteAt (s.index.toNat + r.val)) ∧
        (∀ r, x < r → t.reg r = s.reg r) ∧
        (s.cfg.registerSaveLegacy = true → t.index.toNat = s.index.toNat + x.val + 1) ∧
        (s.cfg.registerSaveLegacy = false → t.index = s.index) ∧ t = { s with v := t.v, index := t.index }) ∧
    (4096 ≤ s.index.toNat + x.val →
      exec (.loadRegs x) s = .next (faulted s .outOfBounds (some (max s.index.toNat 4096))))

/-- Loading V0..Vx, in any later state with that memory and the I of the store, gives back what FX55 stored, whatever the
register file holds by then (spec 95_test_vectors.md E8; 43_index_memory.md R164, R165). -/
def Obligations.LoadAfterStoreRestoresRegisters : Prop :=
  ∀ (x : Reg) (s u : State), s.mem.wf → s.index.toNat + x.val < 4096 →
    ∃ t, exec (.storeRegs x) s = .next t ∧
      (u.mem = t.mem → u.index = s.index → ∃ w, exec (.loadRegs x) u = .next w ∧ ∀ r, r ≤ x → w.reg r = s.reg r)

/-! ### The framebuffer -/

/-- R186: 00E0 turns every pixel off and changes nothing else. -/
def Obligations.ClearScreenTurnsPixelsOff : Prop :=
  decode 0x00E0 = .ok .clearScreen ∧
  ∀ s : State,
    ∃ t, exec .clearScreen s = .next t ∧ (∀ r : Fin 32, t.fb.get r = 0) ∧ (∀ c r, pixel t.fb c r = false) ∧
      t = { s with fb := t.fb }

/-- R183 whole: the mask of a sprite byte is the byte shifted right by x0 - 56 past column 56 and left by 56 - x0 before it;
its pixel j from the left lands on column x0 + j when that is at most 63, and no other column is set. -/
def Obligations.SpriteMaskPlacesByte : Prop :=
  ∀ (x0 : Nat) (b : Byte), x0 < 64 →
    (56 < x0 → spriteMask x0 b = b.setWidth 64 >>> (x0 - 56)) ∧
    (x0 ≤ 56 → spriteMask x0 b = b.setWidth 64 <<< (56 - x0)) ∧
    (∀ j, j < 8 → x0 + j ≤ 63 → (spriteMask x0 b).getLsbD (63 - (x0 + j)) = b.getLsbD (7 - j)) ∧
    (∀ c, c < 64 → c < x0 ∨ x0 + 8 ≤ c → (spriteMask x0 b).getLsbD (63 - c) = false)

/-- R187: DXYN inverts exactly the pixels where the sprite's bit is 1, the sprite starting at column Vx mod 64 and row
Vy mod 32 and clipped at the edges; nothing else changes, VF included (R190). When n > 0 and a sprite byte is at or beyond
4096, even one of a clipped row, it raises OutOfBounds and draws nothing (the spec's decision D10). -/
def Obligations.DrawInvertsSpritePixels : Prop :=
  ∀ (x y : Reg) (n : Fin 16) (s : State),
    (n.val = 0 ∨ s.index.toNat + n.val ≤ 4096 →
      ∃ t, exec (.draw x y n) s = .next t ∧
        (∀ c r, c < 64 → r < 32 → pixel t.fb c r =
          (pixel s.fb c r ^^ spriteBit s s.index.toNat ((s.reg x).toNat % 64) ((s.reg y).toNat % 32) n.val c r)) ∧
        t = { s with fb := t.fb }) ∧
    (0 < n.val → 4096 < s.index.toNat + n.val →
      exec (.draw x y n) s = .next (faulted s .outOfBounds (some (max s.index.toNat 4096))))

/-- Drawing the same sprite at the same place twice restores the whole state (spec 44_framebuffer_sprite.md R187). -/
def Obligations.DrawTwiceRestoresState : Prop :=
  ∀ (x y : Reg) (n : Fin 16) (s : State), n.val = 0 ∨ s.index.toNat + n.val ≤ 4096 →
    ∃ t, exec (.draw x y n) s = .next t ∧ exec (.draw x y n) t = .next s

/-- DXYN changes only the rows y0 .. min(y0 + n, 32) - 1, and in them only the columns x0 .. min(x0 + 8, 64) - 1: no wrap at
either edge (spec 44_framebuffer_sprite.md R189). -/
def Obligations.DrawStaysInItsRectangle : Prop :=
  ∀ (x y : Reg) (n : Fin 16) (s t : State) (c r : Nat), exec (.draw x y n) s = .next t → pixel t.fb c r ≠ pixel s.fb c r →
    (s.reg y).toNat % 32 ≤ r ∧ r < min ((s.reg y).toNat % 32 + n.val) 32 ∧
    (s.reg x).toNat % 64 ≤ c ∧ c < min ((s.reg x).toNat % 64 + 8) 64

/-! ### Timers and keys -/

/-- R202, R203 and R204: FX07 reads DT into Vx, FX15 writes Vx to DT, FX18 writes Vx to ST, at this EXECUTE; nothing else
changes. -/
def Obligations.TimerInstructionsMoveBytes : Prop :=
  ∀ (x : Reg) (s : State),
    decode (formXNN 0xF x 0x07) = .ok (.readDelay x) ∧ decode (formXNN 0xF x 0x15) = .ok (.setDelay x) ∧
    decode (formXNN 0xF x 0x18) = .ok (.setSound x) ∧
    (∃ t, exec (.readDelay x) s = .next t ∧ t.reg x = s.dt ∧ (∀ r, r ≠ x → t.reg r = s.reg r) ∧ t = { s with v := t.v }) ∧
    exec (.setDelay x) s = .next { s with dt := s.reg x } ∧ exec (.setSound x) s = .next { s with st := s.reg x }

/-- R200 whole: TICK takes one from each timer that is not 0, leaves a timer at 0, changes nothing else, and is refused in
FAULTED. -/
def Obligations.TickCountsDown : Prop :=
  ∀ s : State,
    (s.status ≠ .faulted →
      ∃ t, opTick s = .next t ∧ t.dt.toNat = s.dt.toNat - 1 ∧ t.st.toNat = s.st.toNat - 1 ∧
        t = { s with dt := t.dt, st := t.st }) ∧
    (s.status = .faulted → ∀ t, opTick s ≠ .next t)

/-- The audio output is active exactly when ST is not 0; FX18 and TICK start and stop the device by it
(spec 45_timer_input.md R205, the spec's decision D22). -/
def Obligations.AudioFollowsSoundTimer : Prop :=
  ∀ (s : State), (s.audioActive = true ↔ s.st ≠ 0) ∧
    (∀ (x : Reg) (t : State), exec (.setSound x) s = .next t → s.st = 0 → s.reg x ≠ 0 → audioEvent s t = some .start) ∧
    (∀ t : State, opTick s = .next t → (audioEvent s t = some .stop ↔ s.st = 1))

/-- R208 and R209: EX9E skips when key Vx is held, EXA1 when it is not; nothing but pc changes. A key number of 16 or more
raises InvalidKey (the spec's decision D12). -/
def Obligations.SkipTestsKey : Prop :=
  ∀ (x : Reg) (s : State),
    (∀ k : Key, (s.reg x).toNat = k.val →
      (∃ t, exec (.skipKeyHeld x) s = .next t ∧ (keyHeld s.inputs k = true → t.pc = s.pc + 2) ∧
        (keyHeld s.inputs k = false → t.pc = s.pc) ∧ t = { s with pc := t.pc }) ∧
      (∃ t, exec (.skipKeyNotHeld x) s = .next t ∧ (keyHeld s.inputs k = false → t.pc = s.pc + 2) ∧
        (keyHeld s.inputs k = true → t.pc = s.pc) ∧ t = { s with pc := t.pc })) ∧
    (16 ≤ (s.reg x).toNat →
      exec (.skipKeyHeld x) s = .next (faulted s .invalidKey (some (s.reg x).toNat)) ∧
      exec (.skipKeyNotHeld x) s = .next (faulted s .invalidKey (some (s.reg x).toNat)))

/-- FX0A loads the number of a held key, the picked one when that is held; with no key held it takes pc back by 2, so
that the next cycle runs it again; nothing else changes (spec 45_timer_input.md R210). That any held key may be the answer,
and the held pick is it, is the spec's decision D14 (R206); that some held key is the answer when the pick is not held is the
model's choice, log entry 3. -/
def Obligations.WaitKeyTakesHeldKeyOrRetries : Prop :=
  ∀ (x : Reg) (s : State),
    decode (formXNN 0xF x 0x0A) = .ok (.waitKey x) ∧
    (∀ k : Key, keyHeld s.inputs k = true →
      ∃ t, exec (.waitKey x) s = .next t ∧ (∃ j : Key, keyHeld s.inputs j = true ∧ (t.reg x).toNat = j.val) ∧
        (s.inputs.pick = k → (t.reg x).toNat = k.val) ∧ (∀ r, r ≠ x → t.reg r = s.reg r) ∧ t = { s with v := t.v }) ∧
    ((∀ k : Key, keyHeld s.inputs k = false) → exec (.waitKey x) s = .next { s with pc := s.pc - 2 })

/-- An EXECUTE with no key snapshot does what it does with a snapshot in which no key is held, for every instruction
(spec 45_timer_input.md R207, the spec's decision D13). -/
def Obligations.NoSnapshotIsNoKeyHeld : Prop :=
  ∀ (i : Instr) (s t : State), s.inputs.keys = none → exec i s = .next t →
    exec i { s with inputs := { s.inputs with keys := some 0 } } =
      .next { t with inputs := { s.inputs with keys := some 0 } }

/-! ### Whole-machine rules -/

/-- Every instruction completes in every state: it raises exactly the fault the table of R220 gives it, leaving everything but
the fault record, the status and the latch as it was, or it raises none (spec 60_exceptions.md R220, R230, R231,
40_fetch_decode.md R109; the spec's decisions D19 and D20). -/
def Obligations.EveryInstructionCompletesWithItsOnlyFault : Prop :=
  ∀ (i : Instr) (s : State),
    ∃ t, exec i s = .next t ∧
      (∀ kind info, faultOf i s = some (kind, info) → t = faulted s kind (some info)) ∧
      (faultOf i s = none → t.fault = s.fault ∧ t.status = s.status ∧ t.irValid = s.irValid)

/-- A register changes only if the table of R22 lists the instruction as its writer (spec 10_state.md R22, R107). -/
def Obligations.OnlyListedInstructionsWriteRegisters : Prop :=
  ∀ (i : Instr) (s t : State) (r : Reg), exec i s = .next t → t.reg r ≠ s.reg r → writesReg i s r = true

/-- pc after an EXECUTE that raises no fault is what the table of R25 gives (spec 10_state.md R25). -/
def Obligations.PcFollowsTheTable : Prop :=
  ∀ (i : Instr) (s t : State), faultOf i s = none → exec i s = .next t → t.pc = pcAfter i s

/-- Memory changes only by FX33 and FX55, the framebuffer only by 00E0 and DXYN, the call stack and SP only by 2NNN and
00EE, I only by ANNN, FX1E, FX29, FX55 and FX65, DT only by FX15, ST only by FX18; no instruction changes the configuration,
the latched word, the exit flag, the inputs or the host's requests (spec 20_memory.md R59, 44_framebuffer_sprite.md R180,
10_state.md R23, R28, R35, R39, 60_exceptions.md R235). -/
def Obligations.OnlyListedInstructionsWriteOtherState : Prop :=
  ∀ (i : Instr) (s t : State), exec i s = .next t →
    (t.mem ≠ s.mem → ∃ x, i = .storeDecimal x ∨ i = .storeRegs x) ∧
    (t.fb ≠ s.fb → i = .clearScreen ∨ ∃ x y n, i = .draw x y n) ∧
    (t.stack ≠ s.stack ∨ t.sp ≠ s.sp → i = .ret ∨ ∃ nnn, i = .call nnn) ∧
    (t.index ≠ s.index → ∃ nnn x, i = .loadIndex nnn ∨ i = .addIndex x ∨ i = .glyphAddr x ∨ i = .storeRegs x ∨ i = .loadRegs x) ∧
    (t.dt ≠ s.dt → ∃ x, i = .setDelay x) ∧ (t.st ≠ s.st → ∃ x, i = .setSound x) ∧
    t.cfg = s.cfg ∧ t.irWord = s.irWord ∧ t.irAddr = s.irAddr ∧ t.exited = s.exited ∧ t.inputs = s.inputs ∧
    t.requests = s.requests ∧ t.draws = s.draws

/-- The other instructions cannot learn the inputs of their EXECUTE: with other keys, another random byte and another pick
they do the same (spec 40_fetch_decode.md R111). -/
def Obligations.OnlyListedInstructionsReadInputs : Prop :=
  ∀ (i : Instr) (s t : State) (inp : Inputs), readsInputs i = false → exec i s = .next t →
    exec i { s with inputs := inp } = .next { t with inputs := inp }

/-- An operation has a next state exactly when it is accepted (spec 40_fetch_decode.md R100, 70_reset_and_hazards.md R250; the
spec's decisions D2, D19, D23 and D24). -/
def Obligations.OperationsRunExactlyWhenAccepted : Prop :=
  ∀ (r : Request) (s : State), (∃ t, perform r s = .next t) ↔ accepted s r

/-- In FAULTED every operation but RESET and reading the outputs stops with the record of the fault, and so does a step with no
request pending; RESET with a legal configuration goes on (spec 60_exceptions.md R232, the spec's decision D19; the model's
log entry 4). -/
def Obligations.OnlyResetLeavesFaulted : Prop :=
  ∀ s : State, s.status = .faulted →
    (s.requests = [] → step s = .fault (.terminal s.fault)) ∧
    (∀ r, (∀ cfg, r ≠ .reset cfg) → r ≠ .readOutputs → perform r s = .fault (.terminal s.fault)) ∧
    (∀ cfg : Compat, cfg.fontStart.toNat ≤ 0x1B0 → ∃ t, perform (.reset cfg) s = .next t ∧ t.status = .load ∧ t.fault = none)

/-! ### Reset and loading -/

/-- RESET(cfg), from every state, gives every element its value of the table of R38, and keeps the configuration it is given;
it refuses a font_start above 0x1B0 (spec 10_state.md R38, 70_reset_and_hazards.md R250; the spec's decisions D17 to D24). -/
def Obligations.ResetGivesTheTableOfValues : Prop :=
  ∀ (cfg : Compat) (s : State),
    (cfg.fontStart.toNat ≤ 0x1B0 →
      ∃ t, opReset cfg s = .next t ∧ (∀ r, t.reg r = 0) ∧ t.index = 0 ∧ t.pc = 0x0200 ∧ (∀ k, t.stack.get k = 0) ∧
        t.sp.val = 0 ∧ t.dt = 0 ∧ t.st = 0 ∧ (∀ r, t.fb.get r = 0) ∧ (∀ a, t.mem.byteAt a = 0) ∧ t.cfg = cfg ∧
        t.irWord = 0 ∧ t.irAddr = 0 ∧ t.irValid = false ∧ t.status = .load ∧ t.fault = none ∧ t.exited = false) ∧
    (0x1B0 < cfg.fontStart.toNat → ∀ t, opReset cfg s ≠ .next t)

/-- R251: LOAD_FONT in status LOAD copies exactly 80 bytes to font_start and changes no other byte; another length raises
FontSizeInvalid with the length and writes nothing (the spec's decision D23). -/
def Obligations.LoadFontCopiesEightyBytes : Prop :=
  ∀ (bytes : List Byte) (s : State), s.status = .load → s.mem.wf → s.cfg.fontStart.toNat ≤ 0x1B0 →
    (bytes.length = 80 →
      ∃ t, opLoadFont bytes s = .next t ∧ (∀ k (h : k < bytes.length), t.mem.byteAt (s.cfg.fontStart.toNat + k) = bytes[k]) ∧
        memoryOutside s t s.cfg.fontStart.toNat 80 ∧ t.mem.wf ∧ t = { s with mem := t.mem }) ∧
    (bytes.length ≠ 80 →
      opLoadFont bytes s = .next (recorded s ⟨.fontSizeInvalid, none, none, some bytes.length⟩))

/-- R253 whole: LOAD_PROGRAM in status LOAD copies up to 3584 bytes to 0x200 and changes no other byte; a longer program raises
ProgramTooLarge with the length and writes nothing; in another status it is not accepted. -/
def Obligations.LoadProgramCopiesBytes : Prop :=
  ∀ (bytes : List Byte) (s : State), s.mem.wf →
    (s.status = .load → bytes.length ≤ 3584 →
      ∃ t, opLoadProgram bytes s = .next t ∧ (∀ k (h : k < bytes.length), t.mem.byteAt (0x200 + k) = bytes[k]) ∧
        memoryOutside s t 0x200 bytes.length ∧ t.mem.wf ∧ t = { s with mem := t.mem }) ∧
    (s.status = .load → 3584 < bytes.length →
      opLoadProgram bytes s = .next (recorded s ⟨.programTooLarge, none, none, some bytes.length⟩)) ∧
    (s.status ≠ .load → ∀ t, opLoadProgram bytes s ≠ .next t)

/-! ### Invariants of the step -/

/-- The state after reset satisfies the invariant, with every configuration RESET accepts (spec 10_state.md R38). -/
def Obligations.ResetMeetsInvariant : Prop :=
  ∀ cfg : Compat, cfg.fontStart.toNat ≤ 0x1B0 → Invariant (State.resetWith cfg)

/-- Every step keeps the invariant: memory stays canonical, the configuration legal, the exit flag clear; a fault record stands
exactly in FAULTED; a latched word is the one in memory just before pc; pc never comes near wrapping; every held return address
is one a call can have pushed (spec 10_state.md R24, R35 to R39, 41_flow_stack.md R120, R127, 20_memory.md R50). -/
def Obligations.StepKeepsInvariant : Prop :=
  ∀ s t : State, Invariant s → step s = .next t → Invariant t

/-- Only a requested RESET changes the configuration, and no step sets the exit flag (spec 10_state.md R35, R39; the spec's
decisions D21 and D23). -/
def Obligations.StepKeepsConfigurationUnlessReset : Prop :=
  ∀ s t : State, step s = .next t →
    ((∀ cfg rest, s.requests ≠ .reset cfg :: rest) → t.cfg = s.cfg) ∧ (s.exited = false → t.exited = false)

/-- A step from FAULTED that ends in another status performed a requested RESET and ends in LOAD; a step from LOAD or RUN that
ends in FAULTED leaves some fault record standing and no word latched; a step from RUN that ends in LOAD performed a requested
RESET (spec 60_exceptions.md R229, R232, 70_reset_and_hazards.md R254; the spec's decisions D19 and D24). It does not say
which fault the record is of: the statements of the operations that raise one do. -/
def Obligations.ResetAloneReturnsToLoadAndFaultedHoldsRecord : Prop :=
  ∀ s t : State, step s = .next t →
    (s.status = .faulted → t.status ≠ .faulted → ∃ cfg rest, s.requests = .reset cfg :: rest ∧ t.status = .load) ∧
    (s.status ≠ .faulted → t.status = .faulted → (∃ r, t.fault = some r) ∧ t.irValid = false) ∧
    (s.status = .run → t.status = .load → ∃ cfg rest, s.requests = .reset cfg :: rest)
end

