-- ==== Sys2Proof/Laws/Decode.lean ====
section
/-! SUPPORT. The fields of an encoded word are the encoded fields, and a word is put together again from its fields
(spec 30_encoding.md R81, R83). -/

namespace Sys2Proof

/-- A field that lies above the low part of a concatenation. -/
theorem extract_high {v w start len : Nat} (hi : BitVec v) (lo : BitVec w) (h : w ≤ start) :
    (hi ++ lo).extractLsb' start len = hi.extractLsb' (start - w) len := BitVec.extractLsb'_append_eq_of_le h

/-- A field that lies in the low part of a concatenation. -/
theorem extract_low {v w start len : Nat} (hi : BitVec v) (lo : BitVec w) (h : start + len ≤ w) :
    (hi ++ lo).extractLsb' start len = lo.extractLsb' start len := BitVec.extractLsb'_append_eq_of_add_le h

/-! ### Format NNN -/

theorem fieldI_formNNN (i : BitVec 4) (nnn : Addr12) : fieldI (formNNN i nnn) = i :=
  (extract_high i nnn (by decide)).trans BitVec.extractLsb'_eq_self

theorem fieldNNN_formNNN (i : BitVec 4) (nnn : Addr12) : fieldNNN (formNNN i nnn) = nnn :=
  (extract_low i nnn (by decide)).trans BitVec.extractLsb'_eq_self

theorem fieldX_formNNN (i : BitVec 4) (nnn : Addr12) : fieldX (formNNN i nnn) = topNibble nnn :=
  congrArg BitVec.toFin (extract_low i nnn (start := 8) (len := 4) (by decide))

/-! ### Format XNN -/

theorem fieldI_formXNN (i : BitVec 4) (x : Reg) (nn : Byte) : fieldI (formXNN i x nn) = i := by
  rw [fieldI, formXNN, extract_high _ _ (by decide), extract_high _ _ (by decide)]
  exact BitVec.extractLsb'_eq_self

theorem fieldX_formXNN (i : BitVec 4) (x : Reg) (nn : Byte) : fieldX (formXNN i x nn) = x := by
  rw [fieldX, formXNN, extract_high _ _ (by decide), extract_low _ _ (by decide)]
  exact congrArg BitVec.toFin (BitVec.extractLsb'_eq_self (x := BitVec.ofFin (w := 4) x))

theorem fieldNN_formXNN (i : BitVec 4) (x : Reg) (nn : Byte) : fieldNN (formXNN i x nn) = nn := by
  rw [fieldNN, formXNN, extract_low _ _ (by decide)]
  exact BitVec.extractLsb'_eq_self

/-! ### Format XYN -/

theorem fieldI_formXYN (i : BitVec 4) (x y : Reg) (n : BitVec 4) : fieldI (formXYN i x y n) = i := by
  rw [fieldI, formXYN, extract_high _ _ (by decide), extract_high _ _ (by decide), extract_high _ _ (by decide)]
  exact BitVec.extractLsb'_eq_self

theorem fieldX_formXYN (i : BitVec 4) (x y : Reg) (n : BitVec 4) : fieldX (formXYN i x y n) = x := by
  rw [fieldX, formXYN, extract_high _ _ (by decide), extract_high _ _ (by decide), extract_low _ _ (by decide)]
  exact congrArg BitVec.toFin (BitVec.extractLsb'_eq_self (x := BitVec.ofFin (w := 4) x))

theorem fieldY_formXYN (i : BitVec 4) (x y : Reg) (n : BitVec 4) : fieldY (formXYN i x y n) = y := by
  rw [fieldY, formXYN, extract_high _ _ (by decide), extract_low _ _ (by decide)]
  exact congrArg BitVec.toFin (BitVec.extractLsb'_eq_self (x := BitVec.ofFin (w := 4) y))

theorem fieldN_formXYN (i : BitVec 4) (x y : Reg) (n : BitVec 4) : fieldN (formXYN i x y n) = n := by
  rw [fieldN, formXYN, extract_low _ _ (by decide)]
  exact BitVec.extractLsb'_eq_self

/-! ### Masks of the match/mask table (R91) -/

theorem formNNN_and_F000 (i : BitVec 4) (nnn : Addr12) : formNNN i nnn &&& 0xF000 = formNNN i 0 := by
  have m : (0xF000 : Word) = (0xF : BitVec 4) ++ 0#12 := by decide
  have f : i &&& 0xF = i := BitVec.and_allOnes
  rw [m, formNNN, BitVec.and_append, f, BitVec.and_zero, formNNN]
  rfl

theorem formXNN_and_F0FF (i : BitVec 4) (x : Reg) (nn : Byte) : formXNN i x nn &&& 0xF0FF = formXNN i 0 nn := by
  have m : (0xF0FF : Word) = (0xF : BitVec 4) ++ 0#4 ++ (0xFF : Byte) := by decide
  have f : i &&& 0xF = i := BitVec.and_allOnes
  have g : nn &&& 0xFF = nn := BitVec.and_allOnes
  rw [m, formXNN, BitVec.and_append, BitVec.and_append, f, g, BitVec.and_zero, formXNN]
  rfl

theorem formXNN_and_F000 (i : BitVec 4) (x : Reg) (nn : Byte) : formXNN i x nn &&& 0xF000 = formXNN i 0 0 := by
  have m : (0xF000 : Word) = (0xF : BitVec 4) ++ 0#4 ++ 0#8 := by decide
  have f : i &&& 0xF = i := BitVec.and_allOnes
  rw [m, formXNN, BitVec.and_append, BitVec.and_append, f, BitVec.and_zero, BitVec.and_zero, formXNN]
  rfl

theorem formXYN_and_F00F (i : BitVec 4) (x y : Reg) (n : BitVec 4) : formXYN i x y n &&& 0xF00F = formXYN i 0 0 n := by
  have m : (0xF00F : Word) = (0xF : BitVec 4) ++ 0#4 ++ 0#4 ++ (0xF : BitVec 4) := by decide
  have f : i &&& 0xF = i := BitVec.and_allOnes
  have g : n &&& 0xF = n := BitVec.and_allOnes
  rw [m, formXYN, BitVec.and_append, BitVec.and_append, BitVec.and_append, f, g, BitVec.and_zero,
    BitVec.and_zero, formXYN]
  rfl

theorem formXYN_and_F000 (i : BitVec 4) (x y : Reg) (n : BitVec 4) : formXYN i x y n &&& 0xF000 = formXYN i 0 0 0 := by
  have m : (0xF000 : Word) = (0xF : BitVec 4) ++ 0#4 ++ 0#4 ++ 0#4 := by decide
  have f : i &&& 0xF = i := BitVec.and_allOnes
  rw [m, formXYN, BitVec.and_append, BitVec.and_append, BitVec.and_append, f, BitVec.and_zero, BitVec.and_zero,
    BitVec.and_zero, formXYN]
  rfl

/-! ### A word from its fields -/

theorem formNNN_fields (w : Word) : formNNN (fieldI w) (fieldNNN w) = w :=
  (BitVec.extractLsb'_append_extractLsb'_eq_extractLsb' (x := w) (start₁ := 0) (len₁ := 12) (len₂ := 4) rfl).trans
    BitVec.extractLsb'_eq_self

theorem formXNN_fields (w : Word) : formXNN (fieldI w) (fieldX w) (fieldNN w) = w := by
  have h : fieldI w ++ BitVec.ofFin (w := 4) (fieldX w) = w.extractLsb' 8 8 :=
    BitVec.extractLsb'_append_extractLsb'_eq_extractLsb' (x := w) (start₁ := 8) (len₁ := 4) (len₂ := 4) rfl
  rw [formXNN, h]
  exact (BitVec.extractLsb'_append_extractLsb'_eq_extractLsb' (x := w) (start₁ := 0) (len₁ := 8) (len₂ := 8) rfl).trans
    BitVec.extractLsb'_eq_self

theorem formXYN_fields (w : Word) : formXYN (fieldI w) (fieldX w) (fieldY w) (fieldN w) = w := by
  have h : fieldI w ++ BitVec.ofFin (w := 4) (fieldX w) = w.extractLsb' 8 8 :=
    BitVec.extractLsb'_append_extractLsb'_eq_extractLsb' (x := w) (start₁ := 8) (len₁ := 4) (len₂ := 4) rfl
  have h2 : w.extractLsb' 8 8 ++ BitVec.ofFin (w := 4) (fieldY w) = w.extractLsb' 4 12 :=
    BitVec.extractLsb'_append_extractLsb'_eq_extractLsb' (x := w) (start₁ := 4) (len₁ := 4) (len₂ := 8) rfl
  rw [formXYN, h, h2]
  exact (BitVec.extractLsb'_append_extractLsb'_eq_extractLsb' (x := w) (start₁ := 0) (len₁ := 4) (len₂ := 12) rfl).trans
    BitVec.extractLsb'_eq_self

/-- BNNN's two overlapping fields of one word agree (spec 30_encoding.md R81: `nnn = {x, y, n}`). -/
theorem topNibble_fieldNNN (w : Word) : topNibble (fieldNNN w) = fieldX w := by
  rw [← fieldX_formNNN (fieldI w), formNNN_fields]

/-- Laying a word out as bytes and reading it back (R80). -/
theorem wordOfBytes_bytes (w : Word) : wordOfBytes (w.extractLsb' 8 8) (w.extractLsb' 0 8) = w :=
  (BitVec.extractLsb'_append_extractLsb'_eq_extractLsb' (x := w) (start₁ := 0) (len₁ := 8) (len₂ := 8) rfl).trans
    BitVec.extractLsb'_eq_self

/-- The decoder over bytes is the decoder over words (R80). -/
theorem decodeBytes_bytesOfWord (w : Word) (rest : List Byte) :
    decodeBytes (bytesOfWord w ++ rest) = (decode w).map (·, rest) := by
  simp [bytesOfWord, decodeBytes, wordOfBytes_bytes]

/-- A table word of 16 bits is decoded as that word. -/
theorem decodeTableWord_eq (w : Nat) (i : Instr) :
    decodeTableWord 16 w = some i ↔ decode (BitVec.ofNat 16 w) = .ok i := by
  have e : BitVec.ofNat 16 (w % 2 ^ 16) = BitVec.ofNat 16 w := by apply BitVec.eq_of_toNat_eq; simp
  have := decodeBytes_bytesOfWord (BitVec.ofNat 16 w) []
  rw [List.append_nil] at this
  rw [decodeTableWord, e, this]
  cases decode (BitVec.ofNat 16 w) <;> simp [Except.map]

end Sys2Proof
end

