-- ==== Sys2Proof/Laws/State.lean ====
section
/-! SUPPORT. What each update of the state does to each field, so that no proof unfolds a record update. -/

namespace Sys2Proof.Machine

variable (s : State)

/-! ### setReg -/

@[simp] theorem State.setReg_v (r : Reg) (b : Byte) : (s.setReg r b).v = s.v.set r.val b r.isLt := rfl
@[simp] theorem State.setReg_index (r : Reg) (b : Byte) : (s.setReg r b).index = s.index := rfl
@[simp] theorem State.setReg_pc (r : Reg) (b : Byte) : (s.setReg r b).pc = s.pc := rfl
@[simp] theorem State.setReg_stack (r : Reg) (b : Byte) : (s.setReg r b).stack = s.stack := rfl
@[simp] theorem State.setReg_sp (r : Reg) (b : Byte) : (s.setReg r b).sp = s.sp := rfl
@[simp] theorem State.setReg_dt (r : Reg) (b : Byte) : (s.setReg r b).dt = s.dt := rfl
@[simp] theorem State.setReg_st (r : Reg) (b : Byte) : (s.setReg r b).st = s.st := rfl
@[simp] theorem State.setReg_fb (r : Reg) (b : Byte) : (s.setReg r b).fb = s.fb := rfl
@[simp] theorem State.setReg_mem (r : Reg) (b : Byte) : (s.setReg r b).mem = s.mem := rfl
@[simp] theorem State.setReg_cfg (r : Reg) (b : Byte) : (s.setReg r b).cfg = s.cfg := rfl
@[simp] theorem State.setReg_irWord (r : Reg) (b : Byte) : (s.setReg r b).irWord = s.irWord := rfl
@[simp] theorem State.setReg_irAddr (r : Reg) (b : Byte) : (s.setReg r b).irAddr = s.irAddr := rfl
@[simp] theorem State.setReg_irValid (r : Reg) (b : Byte) : (s.setReg r b).irValid = s.irValid := rfl
@[simp] theorem State.setReg_status (r : Reg) (b : Byte) : (s.setReg r b).status = s.status := rfl
@[simp] theorem State.setReg_fault (r : Reg) (b : Byte) : (s.setReg r b).fault = s.fault := rfl
@[simp] theorem State.setReg_exited (r : Reg) (b : Byte) : (s.setReg r b).exited = s.exited := rfl
@[simp] theorem State.setReg_inputs (r : Reg) (b : Byte) : (s.setReg r b).inputs = s.inputs := rfl
@[simp] theorem State.setReg_requests (r : Reg) (b : Byte) : (s.setReg r b).requests = s.requests := rfl
@[simp] theorem State.setReg_draws (r : Reg) (b : Byte) : (s.setReg r b).draws = s.draws := rfl

/-! ### setRegs -/

@[simp] theorem State.setRegs_v (v : Vector Byte 16) : (s.setRegs v).v = v := rfl
@[simp] theorem State.setRegs_index (v : Vector Byte 16) : (s.setRegs v).index = s.index := rfl
@[simp] theorem State.setRegs_pc (v : Vector Byte 16) : (s.setRegs v).pc = s.pc := rfl
@[simp] theorem State.setRegs_stack (v : Vector Byte 16) : (s.setRegs v).stack = s.stack := rfl
@[simp] theorem State.setRegs_sp (v : Vector Byte 16) : (s.setRegs v).sp = s.sp := rfl
@[simp] theorem State.setRegs_dt (v : Vector Byte 16) : (s.setRegs v).dt = s.dt := rfl
@[simp] theorem State.setRegs_st (v : Vector Byte 16) : (s.setRegs v).st = s.st := rfl
@[simp] theorem State.setRegs_fb (v : Vector Byte 16) : (s.setRegs v).fb = s.fb := rfl
@[simp] theorem State.setRegs_mem (v : Vector Byte 16) : (s.setRegs v).mem = s.mem := rfl
@[simp] theorem State.setRegs_cfg (v : Vector Byte 16) : (s.setRegs v).cfg = s.cfg := rfl
@[simp] theorem State.setRegs_irWord (v : Vector Byte 16) : (s.setRegs v).irWord = s.irWord := rfl
@[simp] theorem State.setRegs_irAddr (v : Vector Byte 16) : (s.setRegs v).irAddr = s.irAddr := rfl
@[simp] theorem State.setRegs_irValid (v : Vector Byte 16) : (s.setRegs v).irValid = s.irValid := rfl
@[simp] theorem State.setRegs_status (v : Vector Byte 16) : (s.setRegs v).status = s.status := rfl
@[simp] theorem State.setRegs_fault (v : Vector Byte 16) : (s.setRegs v).fault = s.fault := rfl
@[simp] theorem State.setRegs_exited (v : Vector Byte 16) : (s.setRegs v).exited = s.exited := rfl
@[simp] theorem State.setRegs_inputs (v : Vector Byte 16) : (s.setRegs v).inputs = s.inputs := rfl
@[simp] theorem State.setRegs_requests (v : Vector Byte 16) : (s.setRegs v).requests = s.requests := rfl
@[simp] theorem State.setRegs_draws (v : Vector Byte 16) : (s.setRegs v).draws = s.draws := rfl

/-! ### setIndex -/

@[simp] theorem State.setIndex_v (w : Word) : (s.setIndex w).v = s.v := rfl
@[simp] theorem State.setIndex_index (w : Word) : (s.setIndex w).index = w := rfl
@[simp] theorem State.setIndex_pc (w : Word) : (s.setIndex w).pc = s.pc := rfl
@[simp] theorem State.setIndex_stack (w : Word) : (s.setIndex w).stack = s.stack := rfl
@[simp] theorem State.setIndex_sp (w : Word) : (s.setIndex w).sp = s.sp := rfl
@[simp] theorem State.setIndex_dt (w : Word) : (s.setIndex w).dt = s.dt := rfl
@[simp] theorem State.setIndex_st (w : Word) : (s.setIndex w).st = s.st := rfl
@[simp] theorem State.setIndex_fb (w : Word) : (s.setIndex w).fb = s.fb := rfl
@[simp] theorem State.setIndex_mem (w : Word) : (s.setIndex w).mem = s.mem := rfl
@[simp] theorem State.setIndex_cfg (w : Word) : (s.setIndex w).cfg = s.cfg := rfl
@[simp] theorem State.setIndex_irWord (w : Word) : (s.setIndex w).irWord = s.irWord := rfl
@[simp] theorem State.setIndex_irAddr (w : Word) : (s.setIndex w).irAddr = s.irAddr := rfl
@[simp] theorem State.setIndex_irValid (w : Word) : (s.setIndex w).irValid = s.irValid := rfl
@[simp] theorem State.setIndex_status (w : Word) : (s.setIndex w).status = s.status := rfl
@[simp] theorem State.setIndex_fault (w : Word) : (s.setIndex w).fault = s.fault := rfl
@[simp] theorem State.setIndex_exited (w : Word) : (s.setIndex w).exited = s.exited := rfl
@[simp] theorem State.setIndex_inputs (w : Word) : (s.setIndex w).inputs = s.inputs := rfl
@[simp] theorem State.setIndex_requests (w : Word) : (s.setIndex w).requests = s.requests := rfl
@[simp] theorem State.setIndex_draws (w : Word) : (s.setIndex w).draws = s.draws := rfl

/-! ### setPc -/

@[simp] theorem State.setPc_v (w : Word) : (s.setPc w).v = s.v := rfl
@[simp] theorem State.setPc_index (w : Word) : (s.setPc w).index = s.index := rfl
@[simp] theorem State.setPc_pc (w : Word) : (s.setPc w).pc = w := rfl
@[simp] theorem State.setPc_stack (w : Word) : (s.setPc w).stack = s.stack := rfl
@[simp] theorem State.setPc_sp (w : Word) : (s.setPc w).sp = s.sp := rfl
@[simp] theorem State.setPc_dt (w : Word) : (s.setPc w).dt = s.dt := rfl
@[simp] theorem State.setPc_st (w : Word) : (s.setPc w).st = s.st := rfl
@[simp] theorem State.setPc_fb (w : Word) : (s.setPc w).fb = s.fb := rfl
@[simp] theorem State.setPc_mem (w : Word) : (s.setPc w).mem = s.mem := rfl
@[simp] theorem State.setPc_cfg (w : Word) : (s.setPc w).cfg = s.cfg := rfl
@[simp] theorem State.setPc_irWord (w : Word) : (s.setPc w).irWord = s.irWord := rfl
@[simp] theorem State.setPc_irAddr (w : Word) : (s.setPc w).irAddr = s.irAddr := rfl
@[simp] theorem State.setPc_irValid (w : Word) : (s.setPc w).irValid = s.irValid := rfl
@[simp] theorem State.setPc_status (w : Word) : (s.setPc w).status = s.status := rfl
@[simp] theorem State.setPc_fault (w : Word) : (s.setPc w).fault = s.fault := rfl
@[simp] theorem State.setPc_exited (w : Word) : (s.setPc w).exited = s.exited := rfl
@[simp] theorem State.setPc_inputs (w : Word) : (s.setPc w).inputs = s.inputs := rfl
@[simp] theorem State.setPc_requests (w : Word) : (s.setPc w).requests = s.requests := rfl
@[simp] theorem State.setPc_draws (w : Word) : (s.setPc w).draws = s.draws := rfl

/-! ### skip -/

@[simp] theorem State.skip_v : s.skip.v = s.v := rfl
@[simp] theorem State.skip_index : s.skip.index = s.index := rfl
@[simp] theorem State.skip_pc : s.skip.pc = s.pc + 2 := rfl
@[simp] theorem State.skip_stack : s.skip.stack = s.stack := rfl
@[simp] theorem State.skip_sp : s.skip.sp = s.sp := rfl
@[simp] theorem State.skip_dt : s.skip.dt = s.dt := rfl
@[simp] theorem State.skip_st : s.skip.st = s.st := rfl
@[simp] theorem State.skip_fb : s.skip.fb = s.fb := rfl
@[simp] theorem State.skip_mem : s.skip.mem = s.mem := rfl
@[simp] theorem State.skip_cfg : s.skip.cfg = s.cfg := rfl
@[simp] theorem State.skip_irWord : s.skip.irWord = s.irWord := rfl
@[simp] theorem State.skip_irAddr : s.skip.irAddr = s.irAddr := rfl
@[simp] theorem State.skip_irValid : s.skip.irValid = s.irValid := rfl
@[simp] theorem State.skip_status : s.skip.status = s.status := rfl
@[simp] theorem State.skip_fault : s.skip.fault = s.fault := rfl
@[simp] theorem State.skip_exited : s.skip.exited = s.exited := rfl
@[simp] theorem State.skip_inputs : s.skip.inputs = s.inputs := rfl
@[simp] theorem State.skip_requests : s.skip.requests = s.requests := rfl
@[simp] theorem State.skip_draws : s.skip.draws = s.draws := rfl

/-! ### setDelay -/

@[simp] theorem State.setDelay_v (b : Byte) : (s.setDelay b).v = s.v := rfl
@[simp] theorem State.setDelay_index (b : Byte) : (s.setDelay b).index = s.index := rfl
@[simp] theorem State.setDelay_pc (b : Byte) : (s.setDelay b).pc = s.pc := rfl
@[simp] theorem State.setDelay_stack (b : Byte) : (s.setDelay b).stack = s.stack := rfl
@[simp] theorem State.setDelay_sp (b : Byte) : (s.setDelay b).sp = s.sp := rfl
@[simp] theorem State.setDelay_dt (b : Byte) : (s.setDelay b).dt = b := rfl
@[simp] theorem State.setDelay_st (b : Byte) : (s.setDelay b).st = s.st := rfl
@[simp] theorem State.setDelay_fb (b : Byte) : (s.setDelay b).fb = s.fb := rfl
@[simp] theorem State.setDelay_mem (b : Byte) : (s.setDelay b).mem = s.mem := rfl
@[simp] theorem State.setDelay_cfg (b : Byte) : (s.setDelay b).cfg = s.cfg := rfl
@[simp] theorem State.setDelay_irWord (b : Byte) : (s.setDelay b).irWord = s.irWord := rfl
@[simp] theorem State.setDelay_irAddr (b : Byte) : (s.setDelay b).irAddr = s.irAddr := rfl
@[simp] theorem State.setDelay_irValid (b : Byte) : (s.setDelay b).irValid = s.irValid := rfl
@[simp] theorem State.setDelay_status (b : Byte) : (s.setDelay b).status = s.status := rfl
@[simp] theorem State.setDelay_fault (b : Byte) : (s.setDelay b).fault = s.fault := rfl
@[simp] theorem State.setDelay_exited (b : Byte) : (s.setDelay b).exited = s.exited := rfl
@[simp] theorem State.setDelay_inputs (b : Byte) : (s.setDelay b).inputs = s.inputs := rfl
@[simp] theorem State.setDelay_requests (b : Byte) : (s.setDelay b).requests = s.requests := rfl
@[simp] theorem State.setDelay_draws (b : Byte) : (s.setDelay b).draws = s.draws := rfl

/-! ### setSound -/

@[simp] theorem State.setSound_v (b : Byte) : (s.setSound b).v = s.v := rfl
@[simp] theorem State.setSound_index (b : Byte) : (s.setSound b).index = s.index := rfl
@[simp] theorem State.setSound_pc (b : Byte) : (s.setSound b).pc = s.pc := rfl
@[simp] theorem State.setSound_stack (b : Byte) : (s.setSound b).stack = s.stack := rfl
@[simp] theorem State.setSound_sp (b : Byte) : (s.setSound b).sp = s.sp := rfl
@[simp] theorem State.setSound_dt (b : Byte) : (s.setSound b).dt = s.dt := rfl
@[simp] theorem State.setSound_st (b : Byte) : (s.setSound b).st = b := rfl
@[simp] theorem State.setSound_fb (b : Byte) : (s.setSound b).fb = s.fb := rfl
@[simp] theorem State.setSound_mem (b : Byte) : (s.setSound b).mem = s.mem := rfl
@[simp] theorem State.setSound_cfg (b : Byte) : (s.setSound b).cfg = s.cfg := rfl
@[simp] theorem State.setSound_irWord (b : Byte) : (s.setSound b).irWord = s.irWord := rfl
@[simp] theorem State.setSound_irAddr (b : Byte) : (s.setSound b).irAddr = s.irAddr := rfl
@[simp] theorem State.setSound_irValid (b : Byte) : (s.setSound b).irValid = s.irValid := rfl
@[simp] theorem State.setSound_status (b : Byte) : (s.setSound b).status = s.status := rfl
@[simp] theorem State.setSound_fault (b : Byte) : (s.setSound b).fault = s.fault := rfl
@[simp] theorem State.setSound_exited (b : Byte) : (s.setSound b).exited = s.exited := rfl
@[simp] theorem State.setSound_inputs (b : Byte) : (s.setSound b).inputs = s.inputs := rfl
@[simp] theorem State.setSound_requests (b : Byte) : (s.setSound b).requests = s.requests := rfl
@[simp] theorem State.setSound_draws (b : Byte) : (s.setSound b).draws = s.draws := rfl

/-! ### setFb -/

@[simp] theorem State.setFb_v (fb : Vector FbRow 32) : (s.setFb fb).v = s.v := rfl
@[simp] theorem State.setFb_index (fb : Vector FbRow 32) : (s.setFb fb).index = s.index := rfl
@[simp] theorem State.setFb_pc (fb : Vector FbRow 32) : (s.setFb fb).pc = s.pc := rfl
@[simp] theorem State.setFb_stack (fb : Vector FbRow 32) : (s.setFb fb).stack = s.stack := rfl
@[simp] theorem State.setFb_sp (fb : Vector FbRow 32) : (s.setFb fb).sp = s.sp := rfl
@[simp] theorem State.setFb_dt (fb : Vector FbRow 32) : (s.setFb fb).dt = s.dt := rfl
@[simp] theorem State.setFb_st (fb : Vector FbRow 32) : (s.setFb fb).st = s.st := rfl
@[simp] theorem State.setFb_fb (fb : Vector FbRow 32) : (s.setFb fb).fb = fb := rfl
@[simp] theorem State.setFb_mem (fb : Vector FbRow 32) : (s.setFb fb).mem = s.mem := rfl
@[simp] theorem State.setFb_cfg (fb : Vector FbRow 32) : (s.setFb fb).cfg = s.cfg := rfl
@[simp] theorem State.setFb_irWord (fb : Vector FbRow 32) : (s.setFb fb).irWord = s.irWord := rfl
@[simp] theorem State.setFb_irAddr (fb : Vector FbRow 32) : (s.setFb fb).irAddr = s.irAddr := rfl
@[simp] theorem State.setFb_irValid (fb : Vector FbRow 32) : (s.setFb fb).irValid = s.irValid := rfl
@[simp] theorem State.setFb_status (fb : Vector FbRow 32) : (s.setFb fb).status = s.status := rfl
@[simp] theorem State.setFb_fault (fb : Vector FbRow 32) : (s.setFb fb).fault = s.fault := rfl
@[simp] theorem State.setFb_exited (fb : Vector FbRow 32) : (s.setFb fb).exited = s.exited := rfl
@[simp] theorem State.setFb_inputs (fb : Vector FbRow 32) : (s.setFb fb).inputs = s.inputs := rfl
@[simp] theorem State.setFb_requests (fb : Vector FbRow 32) : (s.setFb fb).requests = s.requests := rfl
@[simp] theorem State.setFb_draws (fb : Vector FbRow 32) : (s.setFb fb).draws = s.draws := rfl

/-! ### setMem -/

@[simp] theorem State.setMem_v (m : Memory) : (s.setMem m).v = s.v := rfl
@[simp] theorem State.setMem_index (m : Memory) : (s.setMem m).index = s.index := rfl
@[simp] theorem State.setMem_pc (m : Memory) : (s.setMem m).pc = s.pc := rfl
@[simp] theorem State.setMem_stack (m : Memory) : (s.setMem m).stack = s.stack := rfl
@[simp] theorem State.setMem_sp (m : Memory) : (s.setMem m).sp = s.sp := rfl
@[simp] theorem State.setMem_dt (m : Memory) : (s.setMem m).dt = s.dt := rfl
@[simp] theorem State.setMem_st (m : Memory) : (s.setMem m).st = s.st := rfl
@[simp] theorem State.setMem_fb (m : Memory) : (s.setMem m).fb = s.fb := rfl
@[simp] theorem State.setMem_mem (m : Memory) : (s.setMem m).mem = m := rfl
@[simp] theorem State.setMem_cfg (m : Memory) : (s.setMem m).cfg = s.cfg := rfl
@[simp] theorem State.setMem_irWord (m : Memory) : (s.setMem m).irWord = s.irWord := rfl
@[simp] theorem State.setMem_irAddr (m : Memory) : (s.setMem m).irAddr = s.irAddr := rfl
@[simp] theorem State.setMem_irValid (m : Memory) : (s.setMem m).irValid = s.irValid := rfl
@[simp] theorem State.setMem_status (m : Memory) : (s.setMem m).status = s.status := rfl
@[simp] theorem State.setMem_fault (m : Memory) : (s.setMem m).fault = s.fault := rfl
@[simp] theorem State.setMem_exited (m : Memory) : (s.setMem m).exited = s.exited := rfl
@[simp] theorem State.setMem_inputs (m : Memory) : (s.setMem m).inputs = s.inputs := rfl
@[simp] theorem State.setMem_requests (m : Memory) : (s.setMem m).requests = s.requests := rfl
@[simp] theorem State.setMem_draws (m : Memory) : (s.setMem m).draws = s.draws := rfl

/-! ### setCallStack -/

@[simp] theorem State.setCallStack_v (stack : Vector Word 32) (sp : Fin 33) : (s.setCallStack stack sp).v = s.v := rfl
@[simp] theorem State.setCallStack_index (stack : Vector Word 32) (sp : Fin 33) : (s.setCallStack stack sp).index = s.index := rfl
@[simp] theorem State.setCallStack_pc (stack : Vector Word 32) (sp : Fin 33) : (s.setCallStack stack sp).pc = s.pc := rfl
@[simp] theorem State.setCallStack_stack (stack : Vector Word 32) (sp : Fin 33) : (s.setCallStack stack sp).stack = stack := rfl
@[simp] theorem State.setCallStack_sp (stack : Vector Word 32) (sp : Fin 33) : (s.setCallStack stack sp).sp = sp := rfl
@[simp] theorem State.setCallStack_dt (stack : Vector Word 32) (sp : Fin 33) : (s.setCallStack stack sp).dt = s.dt := rfl
@[simp] theorem State.setCallStack_st (stack : Vector Word 32) (sp : Fin 33) : (s.setCallStack stack sp).st = s.st := rfl
@[simp] theorem State.setCallStack_fb (stack : Vector Word 32) (sp : Fin 33) : (s.setCallStack stack sp).fb = s.fb := rfl
@[simp] theorem State.setCallStack_mem (stack : Vector Word 32) (sp : Fin 33) : (s.setCallStack stack sp).mem = s.mem := rfl
@[simp] theorem State.setCallStack_cfg (stack : Vector Word 32) (sp : Fin 33) : (s.setCallStack stack sp).cfg = s.cfg := rfl
@[simp] theorem State.setCallStack_irWord (stack : Vector Word 32) (sp : Fin 33) : (s.setCallStack stack sp).irWord = s.irWord := rfl
@[simp] theorem State.setCallStack_irAddr (stack : Vector Word 32) (sp : Fin 33) : (s.setCallStack stack sp).irAddr = s.irAddr := rfl
@[simp] theorem State.setCallStack_irValid (stack : Vector Word 32) (sp : Fin 33) : (s.setCallStack stack sp).irValid = s.irValid := rfl
@[simp] theorem State.setCallStack_status (stack : Vector Word 32) (sp : Fin 33) : (s.setCallStack stack sp).status = s.status := rfl
@[simp] theorem State.setCallStack_fault (stack : Vector Word 32) (sp : Fin 33) : (s.setCallStack stack sp).fault = s.fault := rfl
@[simp] theorem State.setCallStack_exited (stack : Vector Word 32) (sp : Fin 33) : (s.setCallStack stack sp).exited = s.exited := rfl
@[simp] theorem State.setCallStack_inputs (stack : Vector Word 32) (sp : Fin 33) : (s.setCallStack stack sp).inputs = s.inputs := rfl
@[simp] theorem State.setCallStack_requests (stack : Vector Word 32) (sp : Fin 33) : (s.setCallStack stack sp).requests = s.requests := rfl
@[simp] theorem State.setCallStack_draws (stack : Vector Word 32) (sp : Fin 33) : (s.setCallStack stack sp).draws = s.draws := rfl

/-! ### enterFault -/

@[simp] theorem State.enterFault_v (r : FaultRecord) : (s.enterFault r).v = s.v := rfl
@[simp] theorem State.enterFault_index (r : FaultRecord) : (s.enterFault r).index = s.index := rfl
@[simp] theorem State.enterFault_pc (r : FaultRecord) : (s.enterFault r).pc = s.pc := rfl
@[simp] theorem State.enterFault_stack (r : FaultRecord) : (s.enterFault r).stack = s.stack := rfl
@[simp] theorem State.enterFault_sp (r : FaultRecord) : (s.enterFault r).sp = s.sp := rfl
@[simp] theorem State.enterFault_dt (r : FaultRecord) : (s.enterFault r).dt = s.dt := rfl
@[simp] theorem State.enterFault_st (r : FaultRecord) : (s.enterFault r).st = s.st := rfl
@[simp] theorem State.enterFault_fb (r : FaultRecord) : (s.enterFault r).fb = s.fb := rfl
@[simp] theorem State.enterFault_mem (r : FaultRecord) : (s.enterFault r).mem = s.mem := rfl
@[simp] theorem State.enterFault_cfg (r : FaultRecord) : (s.enterFault r).cfg = s.cfg := rfl
@[simp] theorem State.enterFault_irWord (r : FaultRecord) : (s.enterFault r).irWord = s.irWord := rfl
@[simp] theorem State.enterFault_irAddr (r : FaultRecord) : (s.enterFault r).irAddr = s.irAddr := rfl
@[simp] theorem State.enterFault_irValid (r : FaultRecord) : (s.enterFault r).irValid = false := rfl
@[simp] theorem State.enterFault_status (r : FaultRecord) : (s.enterFault r).status = .faulted := rfl
@[simp] theorem State.enterFault_fault (r : FaultRecord) : (s.enterFault r).fault = some r := rfl
@[simp] theorem State.enterFault_exited (r : FaultRecord) : (s.enterFault r).exited = s.exited := rfl
@[simp] theorem State.enterFault_inputs (r : FaultRecord) : (s.enterFault r).inputs = s.inputs := rfl
@[simp] theorem State.enterFault_requests (r : FaultRecord) : (s.enterFault r).requests = s.requests := rfl
@[simp] theorem State.enterFault_draws (r : FaultRecord) : (s.enterFault r).draws = s.draws := rfl

/-! ### startRun -/

@[simp] theorem State.startRun_v : s.startRun.v = s.v := rfl
@[simp] theorem State.startRun_index : s.startRun.index = s.index := rfl
@[simp] theorem State.startRun_pc : s.startRun.pc = s.pc := rfl
@[simp] theorem State.startRun_stack : s.startRun.stack = s.stack := rfl
@[simp] theorem State.startRun_sp : s.startRun.sp = s.sp := rfl
@[simp] theorem State.startRun_dt : s.startRun.dt = s.dt := rfl
@[simp] theorem State.startRun_st : s.startRun.st = s.st := rfl
@[simp] theorem State.startRun_fb : s.startRun.fb = s.fb := rfl
@[simp] theorem State.startRun_mem : s.startRun.mem = s.mem := rfl
@[simp] theorem State.startRun_cfg : s.startRun.cfg = s.cfg := rfl
@[simp] theorem State.startRun_irWord : s.startRun.irWord = s.irWord := rfl
@[simp] theorem State.startRun_irAddr : s.startRun.irAddr = s.irAddr := rfl
@[simp] theorem State.startRun_irValid : s.startRun.irValid = s.irValid := rfl
@[simp] theorem State.startRun_status : s.startRun.status = .run := rfl
@[simp] theorem State.startRun_fault : s.startRun.fault = s.fault := rfl
@[simp] theorem State.startRun_exited : s.startRun.exited = s.exited := rfl
@[simp] theorem State.startRun_inputs : s.startRun.inputs = s.inputs := rfl
@[simp] theorem State.startRun_requests : s.startRun.requests = s.requests := rfl
@[simp] theorem State.startRun_draws : s.startRun.draws = s.draws := rfl

/-! ### latch -/

@[simp] theorem State.latch_v (w : Word) : (s.latch w).v = s.v := rfl
@[simp] theorem State.latch_index (w : Word) : (s.latch w).index = s.index := rfl
@[simp] theorem State.latch_pc (w : Word) : (s.latch w).pc = s.pc + 2 := rfl
@[simp] theorem State.latch_stack (w : Word) : (s.latch w).stack = s.stack := rfl
@[simp] theorem State.latch_sp (w : Word) : (s.latch w).sp = s.sp := rfl
@[simp] theorem State.latch_dt (w : Word) : (s.latch w).dt = s.dt := rfl
@[simp] theorem State.latch_st (w : Word) : (s.latch w).st = s.st := rfl
@[simp] theorem State.latch_fb (w : Word) : (s.latch w).fb = s.fb := rfl
@[simp] theorem State.latch_mem (w : Word) : (s.latch w).mem = s.mem := rfl
@[simp] theorem State.latch_cfg (w : Word) : (s.latch w).cfg = s.cfg := rfl
@[simp] theorem State.latch_irWord (w : Word) : (s.latch w).irWord = w := rfl
@[simp] theorem State.latch_irAddr (w : Word) : (s.latch w).irAddr = s.pc := rfl
@[simp] theorem State.latch_irValid (w : Word) : (s.latch w).irValid = true := rfl
@[simp] theorem State.latch_status (w : Word) : (s.latch w).status = s.status := rfl
@[simp] theorem State.latch_fault (w : Word) : (s.latch w).fault = s.fault := rfl
@[simp] theorem State.latch_exited (w : Word) : (s.latch w).exited = s.exited := rfl
@[simp] theorem State.latch_inputs (w : Word) : (s.latch w).inputs = s.inputs := rfl
@[simp] theorem State.latch_requests (w : Word) : (s.latch w).requests = s.requests := rfl
@[simp] theorem State.latch_draws (w : Word) : (s.latch w).draws = s.draws := rfl

/-! ### beginExecute -/

@[simp] theorem State.beginExecute_v (inp : Inputs) : (s.beginExecute inp).v = s.v := rfl
@[simp] theorem State.beginExecute_index (inp : Inputs) : (s.beginExecute inp).index = s.index := rfl
@[simp] theorem State.beginExecute_pc (inp : Inputs) : (s.beginExecute inp).pc = s.pc := rfl
@[simp] theorem State.beginExecute_stack (inp : Inputs) : (s.beginExecute inp).stack = s.stack := rfl
@[simp] theorem State.beginExecute_sp (inp : Inputs) : (s.beginExecute inp).sp = s.sp := rfl
@[simp] theorem State.beginExecute_dt (inp : Inputs) : (s.beginExecute inp).dt = s.dt := rfl
@[simp] theorem State.beginExecute_st (inp : Inputs) : (s.beginExecute inp).st = s.st := rfl
@[simp] theorem State.beginExecute_fb (inp : Inputs) : (s.beginExecute inp).fb = s.fb := rfl
@[simp] theorem State.beginExecute_mem (inp : Inputs) : (s.beginExecute inp).mem = s.mem := rfl
@[simp] theorem State.beginExecute_cfg (inp : Inputs) : (s.beginExecute inp).cfg = s.cfg := rfl
@[simp] theorem State.beginExecute_irWord (inp : Inputs) : (s.beginExecute inp).irWord = s.irWord := rfl
@[simp] theorem State.beginExecute_irAddr (inp : Inputs) : (s.beginExecute inp).irAddr = s.irAddr := rfl
@[simp] theorem State.beginExecute_irValid (inp : Inputs) : (s.beginExecute inp).irValid = false := rfl
@[simp] theorem State.beginExecute_status (inp : Inputs) : (s.beginExecute inp).status = s.status := rfl
@[simp] theorem State.beginExecute_fault (inp : Inputs) : (s.beginExecute inp).fault = s.fault := rfl
@[simp] theorem State.beginExecute_exited (inp : Inputs) : (s.beginExecute inp).exited = s.exited := rfl
@[simp] theorem State.beginExecute_inputs (inp : Inputs) : (s.beginExecute inp).inputs = inp := rfl
@[simp] theorem State.beginExecute_requests (inp : Inputs) : (s.beginExecute inp).requests = s.requests := rfl
@[simp] theorem State.beginExecute_draws (inp : Inputs) : (s.beginExecute inp).draws = s.draws := rfl

/-! ### takeRequest -/

@[simp] theorem State.takeRequest_v (rest : List Request) : (s.takeRequest rest).v = s.v := rfl
@[simp] theorem State.takeRequest_index (rest : List Request) : (s.takeRequest rest).index = s.index := rfl
@[simp] theorem State.takeRequest_pc (rest : List Request) : (s.takeRequest rest).pc = s.pc := rfl
@[simp] theorem State.takeRequest_stack (rest : List Request) : (s.takeRequest rest).stack = s.stack := rfl
@[simp] theorem State.takeRequest_sp (rest : List Request) : (s.takeRequest rest).sp = s.sp := rfl
@[simp] theorem State.takeRequest_dt (rest : List Request) : (s.takeRequest rest).dt = s.dt := rfl
@[simp] theorem State.takeRequest_st (rest : List Request) : (s.takeRequest rest).st = s.st := rfl
@[simp] theorem State.takeRequest_fb (rest : List Request) : (s.takeRequest rest).fb = s.fb := rfl
@[simp] theorem State.takeRequest_mem (rest : List Request) : (s.takeRequest rest).mem = s.mem := rfl
@[simp] theorem State.takeRequest_cfg (rest : List Request) : (s.takeRequest rest).cfg = s.cfg := rfl
@[simp] theorem State.takeRequest_irWord (rest : List Request) : (s.takeRequest rest).irWord = s.irWord := rfl
@[simp] theorem State.takeRequest_irAddr (rest : List Request) : (s.takeRequest rest).irAddr = s.irAddr := rfl
@[simp] theorem State.takeRequest_irValid (rest : List Request) : (s.takeRequest rest).irValid = s.irValid := rfl
@[simp] theorem State.takeRequest_status (rest : List Request) : (s.takeRequest rest).status = s.status := rfl
@[simp] theorem State.takeRequest_fault (rest : List Request) : (s.takeRequest rest).fault = s.fault := rfl
@[simp] theorem State.takeRequest_exited (rest : List Request) : (s.takeRequest rest).exited = s.exited := rfl
@[simp] theorem State.takeRequest_inputs (rest : List Request) : (s.takeRequest rest).inputs = s.inputs := rfl
@[simp] theorem State.takeRequest_requests (rest : List Request) : (s.takeRequest rest).requests = rest := rfl
@[simp] theorem State.takeRequest_draws (rest : List Request) : (s.takeRequest rest).draws = s.draws := rfl

/-! ### countDraw -/

@[simp] theorem State.countDraw_v : s.countDraw.v = s.v := rfl
@[simp] theorem State.countDraw_index : s.countDraw.index = s.index := rfl
@[simp] theorem State.countDraw_pc : s.countDraw.pc = s.pc := rfl
@[simp] theorem State.countDraw_stack : s.countDraw.stack = s.stack := rfl
@[simp] theorem State.countDraw_sp : s.countDraw.sp = s.sp := rfl
@[simp] theorem State.countDraw_dt : s.countDraw.dt = s.dt := rfl
@[simp] theorem State.countDraw_st : s.countDraw.st = s.st := rfl
@[simp] theorem State.countDraw_fb : s.countDraw.fb = s.fb := rfl
@[simp] theorem State.countDraw_mem : s.countDraw.mem = s.mem := rfl
@[simp] theorem State.countDraw_cfg : s.countDraw.cfg = s.cfg := rfl
@[simp] theorem State.countDraw_irWord : s.countDraw.irWord = s.irWord := rfl
@[simp] theorem State.countDraw_irAddr : s.countDraw.irAddr = s.irAddr := rfl
@[simp] theorem State.countDraw_irValid : s.countDraw.irValid = s.irValid := rfl
@[simp] theorem State.countDraw_status : s.countDraw.status = s.status := rfl
@[simp] theorem State.countDraw_fault : s.countDraw.fault = s.fault := rfl
@[simp] theorem State.countDraw_exited : s.countDraw.exited = s.exited := rfl
@[simp] theorem State.countDraw_inputs : s.countDraw.inputs = s.inputs := rfl
@[simp] theorem State.countDraw_requests : s.countDraw.requests = s.requests := rfl
@[simp] theorem State.countDraw_draws : s.countDraw.draws = s.draws + 1 := rfl

/-! ### Register reads -/

@[simp] theorem State.reg_setReg_same (r : Reg) (b : Byte) : (s.setReg r b).reg r = b := by
  simp [State.reg, Vector.get_eq_getElem]

@[simp] theorem State.reg_setReg_ne {r r' : Reg} (b : Byte) (h : r' ≠ r) : (s.setReg r b).reg r' = s.reg r' := by
  have : r.val ≠ r'.val := fun e => h (Fin.ext e.symm)
  simp [State.reg, Vector.get_eq_getElem, Vector.getElem_set_ne, this]

theorem State.reg_setReg (r r' : Reg) (b : Byte) : (s.setReg r b).reg r' = if r' = r then b else s.reg r' := by
  split
  · rename_i h; subst h; simp
  · rename_i h; simp [h]

/-- Two states agree on the register file when they agree on every register. -/
theorem regs_ext {v w : Vector Byte 16} (h : ∀ r : Reg, v.get r = w.get r) : v = w := by
  exact Vector.ext fun i hi => by simpa [Vector.get_eq_getElem] using h ⟨i, hi⟩

theorem State.reg_of_v_eq {s t : State} (h : t.v = s.v) (r : Reg) : t.reg r = s.reg r := by simp [State.reg, h]

end Sys2Proof.Machine
end

