-- ==== Sys2Proof/Laws/Memory.lean ====
section
/-! SUPPORT. The laws of memory: read after write, the canonical form kept by every operation, and what the checked
multi-byte transfers answer. -/

namespace Sys2Proof.Machine

/-! ### One byte -/

@[simp] theorem Memory.byteAt_nil (a : Nat) : Memory.byteAt [] a = Memory.unlisted := rfl

theorem Memory.byteAt_cons (c : Host.Cell) (m : Memory) (a : Nat) :
    Memory.byteAt (c :: m) a = if c.1 = a then c.2 else Memory.byteAt m a := rfl

/-- An address no entry names reads as unlisted. -/
theorem Memory.byteAt_of_not_listed {m : Memory} {a : Nat} (h : ∀ c ∈ m, c.1 ≠ a) : m.byteAt a = Memory.unlisted := by
  induction m with
  | nil => rfl
  | cons c m ih =>
    rw [Memory.byteAt_cons, if_neg (h c List.mem_cons_self), ih fun d hd => h d (List.mem_cons_of_mem _ hd)]

theorem Memory.wf_nil : Memory.wf [] := by decide

theorem Memory.wf_tail {c : Host.Cell} {m : Memory} (h : Memory.wf (c :: m)) : m.wf :=
  ⟨(List.pairwise_cons.1 h.1).2, fun d hd => h.2 d (by simp [hd])⟩

theorem Memory.lt_of_wf_cons {c d : Host.Cell} {m : Memory} (h : Memory.wf (c :: m)) (hd : d ∈ m) : c.1 < d.1 :=
  (List.pairwise_cons.1 h.1).1 d hd

theorem Memory.byteAt_setByte_ne (m : Memory) {a c : Nat} (b : Byte) (h : c ≠ a) :
    (m.setByte a b).byteAt c = m.byteAt c := by
  induction m with
  | nil => unfold Memory.setByte; split <;> simp [Memory.byteAt_cons, h.symm]
  | cons e m ih =>
    obtain ⟨x, y⟩ := e
    unfold Memory.setByte
    split
    · split <;> simp [Memory.byteAt_cons, h.symm]
    · split
      · rename_i hx; subst hx
        split <;> simp [Memory.byteAt_cons, h.symm]
      · simp [Memory.byteAt_cons, ih]

theorem Memory.byteAt_setByte_same {m : Memory} (hm : m.wf) (a : Nat) (b : Byte) : (m.setByte a b).byteAt a = b := by
  induction m with
  | nil => unfold Memory.setByte; split <;> simp_all [Memory.byteAt_cons]
  | cons e m ih =>
    obtain ⟨x, y⟩ := e
    have hlt : ∀ d ∈ m, x < d.1 := fun d hd => Memory.lt_of_wf_cons hm hd
    unfold Memory.setByte
    split
    · rename_i hax
      split
      · rename_i hb
        rw [hb]
        refine Memory.byteAt_of_not_listed fun d hd => ?_
        rcases List.mem_cons.1 hd with rfl | hd
        · exact fun e => by simp at e; omega
        · have := hlt d hd; omega
      · simp [Memory.byteAt_cons]
    · split
      · rename_i hx
        split
        · rename_i hb
          rw [hb]
          refine Memory.byteAt_of_not_listed fun d hd => ?_
          have := hlt d hd; omega
        · simp [Memory.byteAt_cons]
      · rename_i hx
        rw [Memory.byteAt_cons, if_neg (fun e => hx e.symm), ih (Memory.wf_tail hm)]

/-- Read after write (spec 20_memory.md R63). -/
theorem Memory.byteAt_setByte {m : Memory} (hm : m.wf) (a c : Nat) (b : Byte) :
    (m.setByte a b).byteAt c = if c = a then b else m.byteAt c := by
  split
  · rename_i h; rw [h, Memory.byteAt_setByte_same hm]
  · rename_i h; rw [Memory.byteAt_setByte_ne m b h]

/-- What can be listed after a write. -/
theorem Memory.mem_setByte {m : Memory} {a : Nat} {b : Byte} {c : Host.Cell} (h : c ∈ m.setByte a b) :
    c ∈ m ∨ (c = (a, b) ∧ b ≠ Memory.unlisted) := by
  induction m with
  | nil => unfold Memory.setByte at h; split at h <;> simp_all
  | cons e m ih =>
    obtain ⟨x, y⟩ := e
    unfold Memory.setByte at h
    split at h
    · split at h
      · exact .inl h
      · rcases List.mem_cons.1 h with h | h
        · exact .inr ⟨h, ‹_›⟩
        · exact .inl h
    · split at h
      · split at h
        · exact .inl (by simp [h])
        · rcases List.mem_cons.1 h with h | h
          · exact .inr ⟨h, ‹_›⟩
          · exact .inl (by simp [h])
      · rcases List.mem_cons.1 h with h | h
        · exact .inl (by simp [h])
        · rcases ih h with h | h
          · exact .inl (by simp [h])
          · exact .inr h

/-- A write inside the bank keeps the canonical form. -/
theorem Memory.setByte_wf {m : Memory} (hm : m.wf) {a : Nat} (ha : a < 4096) (b : Byte) : (m.setByte a b).wf := by
  refine ⟨?_, fun c hc => ?_⟩
  · induction m with
    | nil => unfold Memory.setByte; split <;> simp
    | cons e m ih =>
      obtain ⟨x, y⟩ := e
      have hlt : ∀ d ∈ m, x < d.1 := fun d hd => Memory.lt_of_wf_cons hm hd
      unfold Memory.setByte
      split
      · rename_i hax
        split
        · exact hm.1
        · refine List.pairwise_cons.2 ⟨fun d hd => ?_, hm.1⟩
          rcases List.mem_cons.1 hd with rfl | hd
          · exact hax
          · exact hax.trans (hlt d hd)
      · split
        · rename_i hx
          split
          · exact (Memory.wf_tail hm).1
          · exact List.pairwise_cons.2 ⟨fun d hd => hx ▸ hlt d hd, (Memory.wf_tail hm).1⟩
        · refine List.pairwise_cons.2 ⟨fun d hd => ?_, ih (Memory.wf_tail hm)⟩
          rcases Memory.mem_setByte hd with h | ⟨rfl, -⟩
          · exact hlt d h
          · show x < a; omega
  · rcases Memory.mem_setByte hc with h | ⟨rfl, hb⟩
    · exact hm.2 c h
    · exact ⟨ha, hb⟩

/-- A listed entry is what its address reads as. -/
theorem Memory.byteAt_of_mem {m : Memory} (hm : m.wf) {c : Host.Cell} (h : c ∈ m) : m.byteAt c.1 = c.2 := by
  induction m with
  | nil => simp at h
  | cons e m ih =>
    rw [Memory.byteAt_cons]
    rcases List.mem_cons.1 h with rfl | h
    · simp
    · rw [if_neg (by have := Memory.lt_of_wf_cons hm h; omega), ih (Memory.wf_tail hm) h]

/-- Canonical memories that read alike are the same list. -/
theorem Memory.ext_of_wf {m n : Memory} (hm : m.wf) (hn : n.wf) (h : ∀ a, m.byteAt a = n.byteAt a) : m = n := by
  have listed : ∀ {m n : Memory}, m.wf → n.wf → (∀ a, m.byteAt a = n.byteAt a) → ∀ c ∈ m, c ∈ n := by
    intro m n hm hn h c hc
    have hv := Memory.byteAt_of_mem hm hc
    by_cases hin : ∃ d ∈ n, d.1 = c.1
    · obtain ⟨d, hd, he⟩ := hin
      have : d = c := Prod.ext he (by rw [← Memory.byteAt_of_mem hn hd, he, ← h, hv])
      exact this ▸ hd
    · push Not at hin
      rw [h, Memory.byteAt_of_not_listed hin] at hv
      exact absurd hv.symm (hm.2 c hc).2
  have hperm : m.Perm n := by
    refine (List.perm_ext_iff_of_nodup ?_ ?_).2 fun c => ⟨listed hm hn h c, listed hn hm (fun a => (h a).symm) c⟩
    · exact hm.1.imp fun hlt e => by simp [e] at hlt
    · exact hn.1.imp fun hlt e => by simp [e] at hlt
  exact hperm.eq_of_pairwise (fun c d _ _ h1 h2 => absurd (h1.trans h2) (lt_irrefl _)) hm.1 hn.1

/-! ### The primitives (spec 20_memory.md R51-R53) -/

theorem memRead_ok {m : Memory} {a : Nat} (h : a < 4096) : memRead m a = .ok (m.byteAt a) := by
  simp [memRead, h]

theorem memRead_error {m : Memory} {a : Nat} (h : 4096 ≤ a) : memRead m a = .error a := by simp [memRead, h]

theorem memWrite_ok {m : Memory} {a : Nat} {b : Byte} (h : a < 4096) : memWrite m a b = .ok (m.setByte a b) := by
  simp [memWrite, h]

theorem memWrite_error {m : Memory} {a : Nat} {b : Byte} (h : 4096 ≤ a) : memWrite m a b = .error a := by
  simp [memWrite, h]

theorem checkRange_ok {a len : Nat} (h : len = 0 ∨ a + len ≤ 4096) : checkRange a len = .ok () := by
  simp [checkRange, h]

theorem checkRange_error {a len : Nat} (h0 : 0 < len) (h : 4096 < a + len) :
    checkRange a len = .error (max a 4096) := by
  rw [checkRange, if_neg (by omega)]

/-! ### Multi-byte transfers -/

/-- What a run of reads inside the bank answers. -/
theorem readBytes_ok {m : Memory} {a len : Nat} (h : len = 0 ∨ a + len ≤ 4096) :
    readBytes m a len = .ok ((List.range len).map fun k => m.byteAt (a + k)) := by
  induction len generalizing a with
  | zero => rfl
  | succ n ih =>
    rw [readBytes, memRead_ok (by omega)]
    simp only [ih (a := a + 1) (by omega), Except.map, List.range_succ_eq_map, List.map_cons, List.map_map]
    simp [Function.comp_def, Nat.add_comm, Nat.add_left_comm]

/-- A checked read inside the bank. -/
theorem loadBytes_ok {m : Memory} {a len : Nat} (h : len = 0 ∨ a + len ≤ 4096) :
    loadBytes m a len = .ok ((List.range len).map fun k => m.byteAt (a + k)) := by
  simp [loadBytes, checkRange_ok h, readBytes_ok h]

/-- A checked read that leaves the bank. -/
theorem loadBytes_error {m : Memory} {a len : Nat} (h0 : 0 < len) (h : 4096 < a + len) :
    loadBytes m a len = .error (max a 4096) := by
  simp [loadBytes, checkRange_error h0 h]

/-- What a run of writes inside the bank leaves: it succeeds, keeps the canonical form, and changes only its range. -/
theorem writeBytes_ok {m : Memory} (hm : m.wf) {a : Nat} {bs : List Byte} (h : bs.length = 0 ∨ a + bs.length ≤ 4096) :
    ∃ m', writeBytes m a bs = .ok m' ∧ m'.wf ∧
      ∀ c, m'.byteAt c = if h : a ≤ c ∧ c < a + bs.length then bs[c - a]'(by omega) else m.byteAt c := by
  induction bs generalizing m a with
  | nil => exact ⟨m, rfl, hm, fun c => by rw [dif_neg (by simp)]⟩
  | cons b bs ih =>
    simp only [List.length_cons] at h
    have ha : a < 4096 := by omega
    obtain ⟨m', hw, hwf, hb⟩ := ih (Memory.setByte_wf hm ha b) (a := a + 1) (by omega)
    refine ⟨m', by simp [writeBytes, memWrite_ok ha, hw], hwf, fun c => ?_⟩
    rw [hb]
    by_cases h1 : a + 1 ≤ c ∧ c < a + 1 + bs.length
    · rw [dif_pos h1, dif_pos (by simp; omega)]
      obtain ⟨k, hk⟩ : ∃ k, c - a = k + 1 := ⟨c - a - 1, by omega⟩
      have : c - (a + 1) = k := by omega
      simp [hk, this]
    · rw [dif_neg h1, Memory.byteAt_setByte hm]
      by_cases h2 : c = a
      · subst h2; simp
      · rw [if_neg h2, dif_neg (by simp; omega)]

/-- A checked write inside the bank. -/
theorem storeBytes_ok {m : Memory} (hm : m.wf) {a : Nat} {bs : List Byte} (h : bs.length = 0 ∨ a + bs.length ≤ 4096) :
    ∃ m', storeBytes m a bs = .ok m' ∧ m'.wf ∧
      ∀ c, m'.byteAt c = if h : a ≤ c ∧ c < a + bs.length then bs[c - a]'(by omega) else m.byteAt c := by
  simpa [storeBytes, checkRange_ok h] using writeBytes_ok hm h

/-- A checked write that leaves the bank writes nothing. -/
theorem storeBytes_error {m : Memory} {a : Nat} {bs : List Byte} (h0 : 0 < bs.length) (h : 4096 < a + bs.length) :
    storeBytes m a bs = .error (max a 4096) := by
  simp [storeBytes, checkRange_error h0 h]

/-- Everything a checked write can answer. -/
theorem storeBytes_cases {m : Memory} (hm : m.wf) (a : Nat) (bs : List Byte) :
    (∃ m', storeBytes m a bs = .ok m' ∧ m'.wf) ∨ storeBytes m a bs = .error (max a 4096) := by
  by_cases h : bs.length = 0 ∨ a + bs.length ≤ 4096
  · obtain ⟨m', h1, h2, -⟩ := storeBytes_ok hm h
    exact .inl ⟨m', h1, h2⟩
  · exact .inr (storeBytes_error (by omega) (by omega))

/-- A checked write with no hypothesis on the memory: where its range leaves the bank or not decides the answer. -/
theorem storeBytes_isOk (m : Memory) {a : Nat} {bs : List Byte} (h : bs.length = 0 ∨ a + bs.length ≤ 4096) :
    ∃ m', storeBytes m a bs = .ok m' := by
  have key : ∀ (bs : List Byte) (m : Memory) (a : Nat), bs.length = 0 ∨ a + bs.length ≤ 4096 →
      ∃ m', writeBytes m a bs = .ok m' := by
    intro bs
    induction bs with
    | nil => intro m a _; exact ⟨m, rfl⟩
    | cons b bs ih =>
      intro m a h
      simp only [List.length_cons] at h
      simpa [writeBytes, memWrite_ok (show a < 4096 by omega)] using ih (m.setByte a b) (a + 1) (by omega)
  simpa [storeBytes, checkRange_ok h] using key bs m a h

/-- FETCH's reads inside the bank (spec 40_fetch_decode.md R101). -/
theorem fetchWord_ok {m : Memory} {a : Nat} (h : a + 1 < 4096) :
    fetchWord m a = .ok (wordOfBytes (m.byteAt a) (m.byteAt (a + 1))) := by
  simp [fetchWord, checkRange_ok (show 2 = 0 ∨ a + 2 ≤ 4096 by omega), memRead_ok (show a < 4096 by omega),
    memRead_ok h, Except.bind, Except.map]

/-- FETCH's reads at a pc outside the bank (spec 40_fetch_decode.md R102). -/
theorem fetchWord_error {m : Memory} {a : Nat} (h : 4096 ≤ a + 1) : fetchWord m a = .error (max a 4096) := by
  simp [fetchWord, checkRange_error (show 0 < 2 by omega) (show 4096 < a + 2 by omega), Except.bind]

end Sys2Proof.Machine
end

