-- ==== Sys2Proof/Laws/Ops.lean ====
section
/-! SUPPORT. What each shared operation answers: the call stack, the sprite engine, the key input, faults, the operand
forms and the flags. -/

namespace Sys2Proof.Machine

/-! ### Going on or raising -/

@[simp] theorem State.orRaise_ok {α : Type} (s : State) (kind : FaultKind) (a : α) (k : α → State) :
    s.orRaise kind (.ok a) k = k a := rfl

@[simp] theorem State.orRaise_error {α : Type} (s : State) (kind : FaultKind) (info : Nat) (k : α → State) :
    s.orRaise kind (.error info) k = s.raise kind (some info) := rfl

/-- Everything `orRaise` can answer. -/
theorem State.orRaise_cases {α : Type} (s : State) (kind : FaultKind) (r : Except Nat α) (k : α → State) :
    (∃ a, r = .ok a ∧ s.orRaise kind r k = k a) ∨
      ∃ info, r = .error info ∧ s.orRaise kind r k = s.raise kind (some info) := by
  cases r with
  | ok a => exact .inl ⟨a, rfl, rfl⟩
  | error info => exact .inr ⟨info, rfl, rfl⟩

theorem State.raise_eq (s : State) (kind : FaultKind) (info : Option Nat) :
    s.raise kind info = s.enterFault ⟨kind, some s.irAddr, some s.irWord, info⟩ := rfl

theorem State.raiseFetch_eq (s : State) (kind : FaultKind) (info : Nat) :
    s.raiseFetch kind info = s.enterFault ⟨kind, some s.pc, none, some info⟩ := rfl

theorem State.raiseLoad_eq (s : State) (kind : FaultKind) (info : Nat) :
    s.raiseLoad kind info = s.enterFault ⟨kind, none, none, some info⟩ := rfl

/-! ### The call stack (spec 10_state.md R27) -/

theorem State.push_ok (s : State) (w : Word) (h : s.sp.val < 32) :
    s.push w = .ok (s.setCallStack (s.stack.set s.sp.val w h) ⟨s.sp.val + 1, Nat.succ_lt_succ h⟩) := by
  rw [State.push, dif_pos h]

theorem State.push_full (s : State) (w : Word) (h : s.sp.val = 32) : s.push w = .error 32 := by
  rw [State.push, dif_neg (by omega), h]

theorem State.pop_ok (s : State) (h : s.sp.val ≠ 0) :
    s.pop = .ok (s.stack.get ⟨s.sp.val - 1, by omega⟩, s.setCallStack s.stack ⟨s.sp.val - 1, by omega⟩) := by
  rw [State.pop, dif_neg h]

theorem State.pop_empty (s : State) (h : s.sp.val = 0) : s.pop = .error 0 := by rw [State.pop, dif_pos h, h]

/-- A pop right after a push gives the pushed word and the depth before the push. -/
theorem State.pop_push {s t : State} {w : Word} (h : s.push w = .ok t) :
    ∃ u, t.pop = .ok (w, u) ∧ u.sp = s.sp ∧ u = { s with stack := t.stack } := by
  unfold State.push at h
  split at h
  · rename_i hs
    cases h
    refine ⟨{ s with stack := s.stack.set s.sp.val w hs }, ?_, rfl, rfl⟩
    rw [State.pop_ok _ (by simp)]
    simp [Vector.get_eq_getElem, State.setCallStack]
  · cases h

/-! ### The sprite engine (spec 44_framebuffer_sprite.md R182-R184) -/

/-- Pixel j of a sprite byte from the left lands on column `x0 + j`; pixels past column 63 are dropped (R183). -/
theorem spriteMask_getLsbD {x0 c : Nat} (b : Byte) (hx : x0 < 64) (hc : c < 64) :
    (spriteMask x0 b).getLsbD (63 - c) = (decide (x0 ≤ c ∧ c < x0 + 8) && b.getLsbD (7 - (c - x0))) := by
  unfold spriteMask
  split
  · rw [BitVec.getLsbD_ushiftRight, BitVec.getLsbD_setWidth]
    by_cases h : x0 ≤ c
    · have e : x0 - 56 + (63 - c) = 7 - (c - x0) := by omega
      have e2 : c < x0 + 8 := by omega
      simp [e, e2, h]
      omega
    · have : 8 ≤ x0 - 56 + (63 - c) := by omega
      simp [h, BitVec.getLsbD_of_ge _ _ this]
  · rw [BitVec.getLsbD_shiftLeft, BitVec.getLsbD_setWidth]
    by_cases h : x0 ≤ c
    · by_cases h2 : c < x0 + 8
      · have e : 63 - c - (56 - x0) = 7 - (c - x0) := by omega
        have e2 : ¬ 63 - c < 56 - x0 := by omega
        simp [e, e2, h, h2, show 63 - c < 64 by omega, show 7 - (c - x0) < 64 by omega]
      · have e2 : 63 - c < 56 - x0 := by omega
        simp [e2, h2]
    · have : 8 ≤ 63 - c - (56 - x0) := by omega
      simp [h, BitVec.getLsbD_of_ge _ _ this]

/-- A row write changes only its row (R184). -/
theorem pixel_drawRow (fb : Vector FbRow 32) {x0 c : Nat} (y r : Nat) (b : Byte) (hx : x0 < 64) (hc : c < 64) (hr : r < 32) :
    pixel (drawRow fb x0 y b) c r =
      (pixel fb c r ^^ (decide (r = y) && decide (x0 ≤ c ∧ c < x0 + 8) && b.getLsbD (7 - (c - x0)))) := by
  unfold pixel drawRow
  simp only [hr, dif_pos, hc]
  split
  · by_cases h : r = y
    · subst h; simp [spriteMask_getLsbD b hx hc]
    · simp [h, Vector.getElem_set_ne _ _ (Ne.symm h)]
  · have : r ≠ y := by omega
    simp [this]

/-- The pixel of a drawn sprite: inverted exactly where the sprite's bit is 1 (R181-R184, R187). -/
theorem pixel_drawRows (fb : Vector FbRow 32) {x0 c : Nat} (y r : Nat) (bs : List Byte) (hx : x0 < 64) (hc : c < 64)
    (hr : r < 32) :
    pixel (drawRows fb x0 y bs) c r =
      (pixel fb c r ^^ (if h : y ≤ r ∧ r < y + bs.length then
        decide (x0 ≤ c ∧ c < x0 + 8) && (bs[r - y]'(by omega)).getLsbD (7 - (c - x0)) else false)) := by
  induction bs generalizing fb y with
  | nil => rw [dif_neg (by simp)]; simp [drawRows]
  | cons b bs ih =>
    rw [drawRows, ih, pixel_drawRow fb y r b hx hc hr]
    by_cases h : r = y
    · subst h; simp
    · by_cases h1 : y + 1 ≤ r ∧ r < y + 1 + bs.length
      · obtain ⟨k, hk⟩ : ∃ k, r - y = k + 1 := ⟨r - y - 1, by omega⟩
        have : r - (y + 1) = k := by omega
        rw [dif_pos h1, dif_pos (by simp; omega)]
        simp [h, hk, this]
      · rw [dif_neg h1, dif_neg (by simp; omega)]
        simp [h]

/-- Framebuffers with the same pixels are the same. -/
theorem fb_ext {f g : Vector FbRow 32} (h : ∀ c r, c < 64 → r < 32 → pixel f c r = pixel g c r) : f = g := by
  refine Vector.ext fun r hr => BitVec.eq_of_getLsbD_eq fun k hk => ?_
  have := h (63 - k) r (by omega) hr
  have e : 63 - (63 - k) = k := by omega
  simpa [pixel, hr, e, show 63 - k < 64 by omega] using this

@[simp] theorem Config.drawSetsVF_eq : Config.drawSetsVF = false := rfl

/-- `DRAW_SETS_VF` is false: a draw changes the framebuffer and nothing else (R190). -/
@[simp] theorem drawSprite_eq (s : State) (x0 y0 : Nat) (rows : List Byte) :
    drawSprite s x0 y0 rows = s.setFb (drawRows s.fb x0 y0 rows) := by simp [drawSprite]

theorem startColumn_lt (b : Byte) : startColumn b < 64 := Nat.mod_lt _ (by decide)

theorem startRow_lt (b : Byte) : startRow b < 32 := Nat.mod_lt _ (by decide)

/-! ### The key input (spec 45_timer_input.md R206, R207) -/

@[simp] theorem keyHeld_none (rnd : Byte) (pick k : Key) : keyHeld ⟨none, rnd, pick⟩ k = false := rfl

/-- Rotating all keys from any start lists every key. -/
theorem mem_keysFrom (p k : Key) : k ∈ (List.finRange 16).map (p + ·) := by
  refine List.mem_map.2 ⟨k - p, List.mem_finRange _, ?_⟩
  exact add_sub_cancel p k

/-- PressedKey() never answers a key that is not held. -/
theorem pressedKey_held {inp : Inputs} {k : Key} (h : pressedKey inp = some k) : keyHeld inp k = true :=
  List.find?_some h

/-- PressedKey() answers none exactly when no key is held. -/
theorem pressedKey_eq_none (inp : Inputs) : pressedKey inp = none ↔ ∀ k, keyHeld inp k = false := by
  unfold pressedKey
  rw [List.find?_eq_none]
  exact ⟨fun h k => by simpa using h k (mem_keysFrom _ k), fun h k _ => by simp [h k]⟩

/-- A held pick is the answer, so every held key is some pick's answer. -/
theorem pressedKey_pick {inp : Inputs} (h : keyHeld inp inp.pick = true) : pressedKey inp = some inp.pick := by
  unfold pressedKey
  rw [List.finRange_succ, List.map_cons, List.find?_cons_of_pos] <;> simp [h]

/-! ### Operand forms (spec 30_encoding.md R84) -/

@[simp] theorem zextAddr_toNat (nnn : Addr12) : (zextAddr nnn).toNat = nnn.toNat := by
  have := nnn.isLt
  simp [zextAddr]
  omega

theorem keyNumber_ok {b : Byte} (h : b.toNat < 16) : keyNumber b = .ok ⟨b.toNat, h⟩ := by rw [keyNumber, dif_pos h]

theorem keyNumber_error {b : Byte} (h : 16 ≤ b.toNat) : keyNumber b = .error b.toNat := by
  rw [keyNumber, dif_neg (by omega)]

@[simp] theorem length_decimalDigits (b : Byte) : (decimalDigits b).length = 3 := rfl

@[simp] theorem length_regRange (s : State) (x : Reg) : (regRange s x).length = x.val + 1 := by
  simp [regRange]

theorem regRange_getElem (s : State) (x : Reg) (k : Nat) (h : k < (regRange s x).length) :
    (regRange s x)[k] = s.reg ⟨k, by simp at h; omega⟩ := by
  simp [regRange, State.reg, Vector.get_eq_getElem]

/-- Loading a byte list into the registers from `k` on. -/
theorem regsWith_getElem (v : Vector Byte 16) (k : Nat) (bs : List Byte) (i : Nat) (hi : i < 16) :
    (regsWith v k bs)[i] = if h : k ≤ i ∧ i < k + bs.length then bs[i - k]'(by omega) else v[i] := by
  induction bs generalizing v k with
  | nil => rw [dif_neg (by simp)]; rfl
  | cons b bs ih =>
    rw [regsWith, ih]
    by_cases h1 : k + 1 ≤ i ∧ i < k + 1 + bs.length
    · obtain ⟨j, hj⟩ : ∃ j, i - k = j + 1 := ⟨i - k - 1, by omega⟩
      have : i - (k + 1) = j := by omega
      rw [dif_pos h1, dif_pos (by simp; omega)]
      simp [hj, this]
    · by_cases h2 : i = k
      · subst h2
        rw [dif_neg h1, dif_pos (by simp)]
        simp
      · rw [dif_neg h1, dif_neg (by simp; omega)]
        simp [Ne.symm h2]

/-! ### Results with a flag (spec 42_register_alu.md R140) -/

/-- VF ends as the flag, whatever `x` is; any other destination holds the result; the rest is unchanged. -/
theorem State.reg_setResultAndFlag (s : State) (x r : Reg) (res f : Byte) :
    (s.setResultAndFlag x res f).reg r = if r = VF then f else if r = x then res else s.reg r := by
  simp only [State.setResultAndFlag, State.reg_setReg]

/-- A write of a result and a flag touches the register file only. -/
theorem State.setResultAndFlag_eq (s : State) (x : Reg) (res f : Byte) :
    s.setResultAndFlag x res f = { s with v := (s.setResultAndFlag x res f).v } := rfl

end Sys2Proof.Machine
end

