-- ==== Sys2Proof/Laws/Step.lean ====
section
/-! SUPPORT. What FETCH, EXECUTE, the cycle and a step answer, said once. -/

namespace Sys2Proof.Machine

/-! ### Accepting an operation (spec 40_fetch_decode.md R100) -/

theorem State.accepts_fetch (s : State) : s.accepts .fetch = true ↔ s.status ≠ .faulted ∧ s.irValid = false := by
  simp [State.accepts]

theorem State.accepts_execute (s : State) : s.accepts .execute = true ↔ s.status = .run ∧ s.irValid = true := by
  simp [State.accepts]

theorem State.accepts_tick (s : State) : s.accepts .tick = true ↔ s.status ≠ .faulted := by simp [State.accepts]

theorem State.accepts_loadFont (s : State) : s.accepts .loadFont = true ↔ s.status = .load := by simp [State.accepts]

theorem State.accepts_loadProgram (s : State) : s.accepts .loadProgram = true ↔ s.status = .load := by
  simp [State.accepts]

/-- An operation that is not accepted has no next state. -/
theorem State.notAccepted_ne_next (s t : State) (op : Operation) : s.notAccepted op ≠ .next t := by
  unfold State.notAccepted
  split <;> simp

/-- In FAULTED the answer is the record of the run's end. -/
theorem State.notAccepted_faulted {s : State} (h : s.status = .faulted) (op : Operation) :
    s.notAccepted op = .fault (.terminal s.fault) := by simp [State.notAccepted, h]

/-! ### FETCH (spec 40_fetch_decode.md R101, R102) -/

theorem opFetch_ok {s : State} (hs : s.status ≠ .faulted) (hv : s.irValid = false) (hp : s.pc.toNat + 1 < 4096) :
    opFetch s = .next (s.startRun.latch (wordOfBytes (s.mem.byteAt s.pc.toNat) (s.mem.byteAt (s.pc.toNat + 1)))) := by
  rw [opFetch, if_pos ((State.accepts_fetch s).2 ⟨hs, hv⟩), fetchWord_ok hp]

theorem opFetch_error {s : State} (hs : s.status ≠ .faulted) (hv : s.irValid = false) (hp : 4096 ≤ s.pc.toNat + 1) :
    opFetch s = .next (s.startRun.raiseFetch .outOfBounds (max s.pc.toNat 4096)) := by
  rw [opFetch, if_pos ((State.accepts_fetch s).2 ⟨hs, hv⟩), fetchWord_error hp]

/-- Everything FETCH can answer with a next state. -/
theorem opFetch_cases {s t : State} (h : opFetch s = .next t) :
    s.status ≠ .faulted ∧ s.irValid = false ∧
      ((∃ w, fetchWord s.mem s.pc.toNat = .ok w ∧ s.pc.toNat + 1 < 4096 ∧ t = s.startRun.latch w) ∨
        (4096 ≤ s.pc.toNat + 1 ∧ t = s.startRun.raiseFetch .outOfBounds (max s.pc.toNat 4096))) := by
  by_cases ha : s.accepts .fetch = true
  · obtain ⟨hs, hv⟩ := (State.accepts_fetch s).1 ha
    refine ⟨hs, hv, ?_⟩
    by_cases hp : s.pc.toNat + 1 < 4096
    · rw [opFetch_ok hs hv hp] at h
      exact .inl ⟨_, fetchWord_ok hp, hp, (Host.Outcome.next.inj h).symm⟩
    · rw [opFetch_error hs hv (by omega)] at h
      exact .inr ⟨by omega, (Host.Outcome.next.inj h).symm⟩
  · rw [opFetch, if_neg ha] at h
    exact absurd h (State.notAccepted_ne_next _ _ _)

/-! ### EXECUTE (spec 40_fetch_decode.md R104, R105) -/

theorem opExecute_ok {s : State} (inp : Inputs) {i : Instr} (hs : s.status = .run) (hv : s.irValid = true)
    (hd : decode s.irWord = .ok i) : opExecute inp s = exec i (s.beginExecute inp) := by
  rw [opExecute, if_pos ((State.accepts_execute s).2 ⟨hs, hv⟩), hd]

theorem opExecute_illegal {s : State} (inp : Inputs) {e : DecodeReject} (hs : s.status = .run) (hv : s.irValid = true)
    (hd : decode s.irWord = .error e) : opExecute inp s = .next ((s.beginExecute inp).raise .decodeError none) := by
  rw [opExecute, if_pos ((State.accepts_execute s).2 ⟨hs, hv⟩), hd]

/-- Everything EXECUTE can answer with a next state. -/
theorem opExecute_cases {s t : State} {inp : Inputs} (h : opExecute inp s = .next t) :
    s.status = .run ∧ s.irValid = true ∧
      ((∃ i, decode s.irWord = .ok i ∧ exec i (s.beginExecute inp) = .next t) ∨
        t = (s.beginExecute inp).raise .decodeError none) := by
  by_cases ha : s.accepts .execute = true
  · obtain ⟨hs, hv⟩ := (State.accepts_execute s).1 ha
    refine ⟨hs, hv, ?_⟩
    rw [opExecute, if_pos ha] at h
    split at h
    · exact .inl ⟨_, ‹_›, h⟩
    · exact .inr (Host.Outcome.next.inj h).symm
  · rw [opExecute, if_neg ha] at h
    exact absurd h (State.notAccepted_ne_next _ _ _)

/-! ### The loads (spec 70_reset_and_hazards.md R251, R253) -/

/-- A load's copy inside the bank. -/
theorem copyIn_ok (s : State) {a : Nat} {bytes : List Byte} (hm : s.mem.wf) (h : a + bytes.length ≤ 4096) :
    ∃ m, copyIn s a bytes = s.setMem m ∧ m.wf ∧
      ∀ c, m.byteAt c = if h : a ≤ c ∧ c < a + bytes.length then bytes[c - a]'(by omega) else s.mem.byteAt c := by
  obtain ⟨m, h1, h2, h3⟩ := storeBytes_ok hm (.inr h)
  exact ⟨m, by simp [copyIn, h1], h2, h3⟩

/-! ### The cycle and the step (spec 40_fetch_decode.md R110) -/

theorem cycle_latched {s : State} (inp : Inputs) (hv : s.irValid = true) : cycle inp s = opExecute inp s := by
  rw [cycle, if_pos hv]

/-- A cycle whose FETCH reads a word goes on to EXECUTE it. -/
theorem cycle_fetched {s : State} (inp : Inputs) (hs : s.status ≠ .faulted) (hv : s.irValid = false)
    (hp : s.pc.toNat + 1 < 4096) :
    cycle inp s = opExecute inp
      (s.startRun.latch (wordOfBytes (s.mem.byteAt s.pc.toNat) (s.mem.byteAt (s.pc.toNat + 1)))) := by
  rw [cycle, if_neg (by simp [hv]), opFetch_ok hs hv hp]
  simp

/-- A cycle whose FETCH faults ends there. -/
theorem cycle_fetch_fault {s : State} (inp : Inputs) (hs : s.status ≠ .faulted) (hv : s.irValid = false)
    (hp : 4096 ≤ s.pc.toNat + 1) :
    cycle inp s = .next (s.startRun.raiseFetch .outOfBounds (max s.pc.toNat 4096)) := by
  rw [cycle, if_neg (by simp [hv]), opFetch_error hs hv hp]
  simp [State.raiseFetch]

/-- Everything a cycle can answer with a next state: an EXECUTE of the latched word, a FETCH that faults, or both. -/
theorem cycle_cases {s t : State} {inp : Inputs} (h : cycle inp s = .next t) :
    opExecute inp s = .next t ∨ (opFetch s = .next t ∧ t.status = .faulted) ∨
      ∃ u, opFetch s = .next u ∧ opExecute inp u = .next t := by
  unfold cycle at h
  split at h
  · exact .inl h
  · split at h
    · rename_i u hu
      split at h
      · cases h; exact .inr (.inl ⟨hu, ‹_›⟩)
      · exact .inr (.inr ⟨u, hu, h⟩)
    · rename_i hn
      exact absurd h (hn t)

theorem step_idle {s : State} (h : s.requests = []) : step s = cycle (Config.freeInputs s.draws) s.countDraw := by
  rw [step, h]

theorem step_request {s : State} {r : Request} {rest : List Request} (h : s.requests = r :: rest) :
    step s = perform r (s.takeRequest rest) := by
  rw [step, h]

end Sys2Proof.Machine
end

