-- ==== Sys2Proof/Laws/Exec.lean ====
section
/-! SUPPORT. The meanings that branch or can raise, one lemma for each way they go; every other meaning is its one update
by definition. -/

namespace Sys2Proof.Machine

/-! ### Control flow and the call stack -/

theorem execRet_ok (s : State) (h : s.sp.val ≠ 0) :
    execRet s = .next ((s.setCallStack s.stack ⟨s.sp.val - 1, by omega⟩).setPc (s.stack.get ⟨s.sp.val - 1, by omega⟩)) := by
  rw [execRet, State.pop_ok s h]; rfl

theorem execRet_empty (s : State) (h : s.sp.val = 0) : execRet s = .next (s.raise .stackUnderflow (some 0)) := by
  rw [execRet, State.pop_empty s h]; rfl

theorem execCall_ok (nnn : Addr12) (s : State) (h : s.sp.val < 32) :
    execCall nnn s = .next ((s.setCallStack (s.stack.set s.sp.val s.pc h)
      ⟨s.sp.val + 1, Nat.succ_lt_succ h⟩).setPc (zextAddr nnn)) := by
  rw [execCall, State.push_ok s _ h]; rfl

theorem execCall_full (nnn : Addr12) (s : State) (h : s.sp.val = 32) :
    execCall nnn s = .next (s.raise .stackOverflow (some 32)) := by
  rw [execCall, State.push_full s _ h]; rfl

/-! ### Index and memory -/

theorem execAddIndex_carry (x : Reg) (s : State) (h : s.cfg.indexAddCarry = true) :
    execAddIndex x s = .next ((s.setIndex (s.index + (s.reg x).setWidth 16)).setReg VF (indexCarryFlag s.index (s.reg x))) := by
  simp only [execAddIndex, h, if_true]

theorem execAddIndex_plain (x : Reg) (s : State) (h : s.cfg.indexAddCarry = false) :
    execAddIndex x s = .next (s.setIndex (s.index + (s.reg x).setWidth 16)) := by
  simp only [execAddIndex]
  rw [if_neg (by simp [h])]

theorem execStoreDecimal_fault (x : Reg) (s : State) (h : 4096 < s.index.toNat + 3) :
    execStoreDecimal x s = .next (s.raise .outOfBounds (some (max s.index.toNat 4096))) := by
  rw [execStoreDecimal, storeBytes_error (by simp) (by simpa using h)]; rfl

theorem execStoreDecimal_next (x : Reg) (s : State) (h : s.index.toNat + 3 ≤ 4096) :
    ∃ m, storeBytes s.mem s.index.toNat (decimalDigits (s.reg x)) = .ok m ∧ execStoreDecimal x s = .next (s.setMem m) := by
  obtain ⟨m, hm⟩ := storeBytes_isOk s.mem (a := s.index.toNat) (bs := decimalDigits (s.reg x)) (.inr (by simpa using h))
  exact ⟨m, hm, by rw [execStoreDecimal, hm]; rfl⟩

theorem execStoreRegs_fault (x : Reg) (s : State) (h : 4096 < s.index.toNat + (x.val + 1)) :
    execStoreRegs x s = .next (s.raise .outOfBounds (some (max s.index.toNat 4096))) := by
  rw [execStoreRegs, storeBytes_error (by simp) (by simpa using h)]; rfl

theorem execStoreRegs_next (x : Reg) (s : State) (h : s.index.toNat + (x.val + 1) ≤ 4096) :
    ∃ m, storeBytes s.mem s.index.toNat (regRange s x) = .ok m ∧
      execStoreRegs x s = .next ((s.setMem m).setIndex (indexAfterTransfer s x)) := by
  obtain ⟨m, hm⟩ := storeBytes_isOk s.mem (a := s.index.toNat) (bs := regRange s x) (.inr (by simpa using h))
  exact ⟨m, hm, by rw [execStoreRegs, hm]; rfl⟩

theorem execLoadRegs_fault (x : Reg) (s : State) (h : 4096 < s.index.toNat + (x.val + 1)) :
    execLoadRegs x s = .next (s.raise .outOfBounds (some (max s.index.toNat 4096))) := by
  rw [execLoadRegs, loadBytes_error (by omega) h]; rfl

theorem execLoadRegs_next (x : Reg) (s : State) (h : s.index.toNat + (x.val + 1) ≤ 4096) :
    execLoadRegs x s = .next ((s.setRegs (regsWith s.v 0
      ((List.range (x.val + 1)).map fun k => s.mem.byteAt (s.index.toNat + k)))).setIndex (indexAfterTransfer s x)) := by
  rw [execLoadRegs, loadBytes_ok (.inr h)]; rfl

/-! ### The framebuffer -/

theorem execDraw_fault (x y : Reg) (n : Fin 16) (s : State) (h0 : 0 < n.val) (h : 4096 < s.index.toNat + n.val) :
    execDraw x y n s = .next (s.raise .outOfBounds (some (max s.index.toNat 4096))) := by
  rw [execDraw, loadBytes_error h0 h]; rfl

theorem execDraw_next (x y : Reg) (n : Fin 16) (s : State) (h : n.val = 0 ∨ s.index.toNat + n.val ≤ 4096) :
    execDraw x y n s = .next (s.setFb (drawRows s.fb (startColumn (s.reg x)) (startRow (s.reg y))
      ((List.range n.val).map fun k => s.mem.byteAt (s.index.toNat + k)))) := by
  rw [execDraw, loadBytes_ok h, State.orRaise_ok, drawSprite_eq]

/-! ### Keys -/

theorem execSkipKeyHeld_fault (x : Reg) (s : State) (h : 16 ≤ (s.reg x).toNat) :
    execSkipKeyHeld x s = .next (s.raise .invalidKey (some (s.reg x).toNat)) := by
  rw [execSkipKeyHeld, keyNumber_error h]; rfl

theorem execSkipKeyHeld_next (x : Reg) (s : State) (h : (s.reg x).toNat < 16) :
    execSkipKeyHeld x s = .next (if keyHeld s.inputs ⟨(s.reg x).toNat, h⟩ then s.skip else s) := by
  rw [execSkipKeyHeld, keyNumber_ok h]; rfl

theorem execSkipKeyNotHeld_fault (x : Reg) (s : State) (h : 16 ≤ (s.reg x).toNat) :
    execSkipKeyNotHeld x s = .next (s.raise .invalidKey (some (s.reg x).toNat)) := by
  rw [execSkipKeyNotHeld, keyNumber_error h]; rfl

theorem execSkipKeyNotHeld_next (x : Reg) (s : State) (h : (s.reg x).toNat < 16) :
    execSkipKeyNotHeld x s = .next (if keyHeld s.inputs ⟨(s.reg x).toNat, h⟩ then s else s.skip) := by
  rw [execSkipKeyNotHeld, keyNumber_ok h]; rfl

theorem execWaitKey_held (x : Reg) (s : State) {k : Key} (h : pressedKey s.inputs = some k) :
    execWaitKey x s = .next (s.setReg x (BitVec.ofNat 8 k.val)) := by
  rw [execWaitKey, h]

theorem execWaitKey_none (x : Reg) (s : State) (h : pressedKey s.inputs = none) :
    execWaitKey x s = .next (s.setPc (s.pc - 2)) := by
  rw [execWaitKey, h]

end Sys2Proof.Machine
end

