-- ==== Sys2Proof/Laws/PerInstr.lean ====
section
/-! SUPPORT. Laws of each instruction as syntax, one lemma per constructor. -/

/-- Every word the encoder makes of the instruction lies in the instruction's row of the match/mask table
(spec 30_encoding.md R91). -/
def Sys2Proof.Laws.RowOfEncoding.Statement (i : Sys2Proof.Instr) : Prop := (Sys2Proof.opcodeRow i).Matches (Sys2Proof.encode i)

namespace Sys2Proof.Laws

theorem RowOfEncoding.clearScreen : RowOfEncoding.Statement (.clearScreen) :=
  rfl

theorem RowOfEncoding.ret : RowOfEncoding.Statement (.ret) :=
  rfl

theorem RowOfEncoding.jump (nnn : Addr12) : RowOfEncoding.Statement (.jump nnn) :=
  (formNNN_and_F000 _ _).trans rfl

theorem RowOfEncoding.call (nnn : Addr12) : RowOfEncoding.Statement (.call nnn) :=
  (formNNN_and_F000 _ _).trans rfl

theorem RowOfEncoding.skipEqImm (x : Reg) (nn : Byte) : RowOfEncoding.Statement (.skipEqImm x nn) :=
  (formXNN_and_F000 _ _ _).trans rfl

theorem RowOfEncoding.skipNeImm (x : Reg) (nn : Byte) : RowOfEncoding.Statement (.skipNeImm x nn) :=
  (formXNN_and_F000 _ _ _).trans rfl

theorem RowOfEncoding.skipEqReg (x y : Reg) : RowOfEncoding.Statement (.skipEqReg x y) :=
  (formXYN_and_F00F _ _ _ _).trans rfl

theorem RowOfEncoding.loadImm (x : Reg) (nn : Byte) : RowOfEncoding.Statement (.loadImm x nn) :=
  (formXNN_and_F000 _ _ _).trans rfl

theorem RowOfEncoding.addImm (x : Reg) (nn : Byte) : RowOfEncoding.Statement (.addImm x nn) :=
  (formXNN_and_F000 _ _ _).trans rfl

theorem RowOfEncoding.copyReg (x y : Reg) : RowOfEncoding.Statement (.copyReg x y) :=
  (formXYN_and_F00F _ _ _ _).trans rfl

theorem RowOfEncoding.orReg (x y : Reg) : RowOfEncoding.Statement (.orReg x y) :=
  (formXYN_and_F00F _ _ _ _).trans rfl

theorem RowOfEncoding.andReg (x y : Reg) : RowOfEncoding.Statement (.andReg x y) :=
  (formXYN_and_F00F _ _ _ _).trans rfl

theorem RowOfEncoding.xorReg (x y : Reg) : RowOfEncoding.Statement (.xorReg x y) :=
  (formXYN_and_F00F _ _ _ _).trans rfl

theorem RowOfEncoding.addReg (x y : Reg) : RowOfEncoding.Statement (.addReg x y) :=
  (formXYN_and_F00F _ _ _ _).trans rfl

theorem RowOfEncoding.subReg (x y : Reg) : RowOfEncoding.Statement (.subReg x y) :=
  (formXYN_and_F00F _ _ _ _).trans rfl

theorem RowOfEncoding.shiftRight (x y : Reg) : RowOfEncoding.Statement (.shiftRight x y) :=
  (formXYN_and_F00F _ _ _ _).trans rfl

theorem RowOfEncoding.revSubReg (x y : Reg) : RowOfEncoding.Statement (.revSubReg x y) :=
  (formXYN_and_F00F _ _ _ _).trans rfl

theorem RowOfEncoding.shiftLeft (x y : Reg) : RowOfEncoding.Statement (.shiftLeft x y) :=
  (formXYN_and_F00F _ _ _ _).trans rfl

theorem RowOfEncoding.skipNeReg (x y : Reg) : RowOfEncoding.Statement (.skipNeReg x y) :=
  (formXYN_and_F00F _ _ _ _).trans rfl

theorem RowOfEncoding.loadIndex (nnn : Addr12) : RowOfEncoding.Statement (.loadIndex nnn) :=
  (formNNN_and_F000 _ _).trans rfl

theorem RowOfEncoding.jumpOffset (x : Reg) (nnn : Addr12) : RowOfEncoding.Statement (.jumpOffset x nnn) :=
  (formNNN_and_F000 _ _).trans rfl

theorem RowOfEncoding.random (x : Reg) (nn : Byte) : RowOfEncoding.Statement (.random x nn) :=
  (formXNN_and_F000 _ _ _).trans rfl

theorem RowOfEncoding.draw (x y : Reg) (n : Fin 16) : RowOfEncoding.Statement (.draw x y n) :=
  (formXYN_and_F000 _ _ _ _).trans rfl

theorem RowOfEncoding.skipKeyHeld (x : Reg) : RowOfEncoding.Statement (.skipKeyHeld x) :=
  (formXNN_and_F0FF _ _ _).trans rfl

theorem RowOfEncoding.skipKeyNotHeld (x : Reg) : RowOfEncoding.Statement (.skipKeyNotHeld x) :=
  (formXNN_and_F0FF _ _ _).trans rfl

theorem RowOfEncoding.readDelay (x : Reg) : RowOfEncoding.Statement (.readDelay x) :=
  (formXNN_and_F0FF _ _ _).trans rfl

theorem RowOfEncoding.waitKey (x : Reg) : RowOfEncoding.Statement (.waitKey x) :=
  (formXNN_and_F0FF _ _ _).trans rfl

theorem RowOfEncoding.setDelay (x : Reg) : RowOfEncoding.Statement (.setDelay x) :=
  (formXNN_and_F0FF _ _ _).trans rfl

theorem RowOfEncoding.setSound (x : Reg) : RowOfEncoding.Statement (.setSound x) :=
  (formXNN_and_F0FF _ _ _).trans rfl

theorem RowOfEncoding.addIndex (x : Reg) : RowOfEncoding.Statement (.addIndex x) :=
  (formXNN_and_F0FF _ _ _).trans rfl

theorem RowOfEncoding.glyphAddr (x : Reg) : RowOfEncoding.Statement (.glyphAddr x) :=
  (formXNN_and_F0FF _ _ _).trans rfl

theorem RowOfEncoding.storeDecimal (x : Reg) : RowOfEncoding.Statement (.storeDecimal x) :=
  (formXNN_and_F0FF _ _ _).trans rfl

theorem RowOfEncoding.storeRegs (x : Reg) : RowOfEncoding.Statement (.storeRegs x) :=
  (formXNN_and_F0FF _ _ _).trans rfl

theorem RowOfEncoding.loadRegs (x : Reg) : RowOfEncoding.Statement (.loadRegs x) :=
  (formXNN_and_F0FF _ _ _).trans rfl

end Sys2Proof.Laws
end

