-- ==== Sys2Proof/Tests/Slice0.lean ====
section
/-! SUPPORT. The model's own tests, with results from spec 95_test_vectors.md (the vector is named at each), and a witness
for every statement that has hypotheses. -/

namespace Sys2Proof.Machine.Test

/-! ### Helpers -/

/-- No key snapshot. -/
def quiet : Inputs := ⟨none, 0, 0⟩

/-- The inputs of an EXECUTE with the keys of a mask held. -/
def held (mask : BitVec 16) (pick : Key) : Inputs := ⟨some mask, 0, pick⟩

/-- The reset state with some registers set. -/
def withRegs (rs : List (Reg × Byte)) : State := rs.foldl (fun s p => s.setReg p.1 p.2) State.reset

/-- The vectors' start: the word `w`, fetched at 0x0200, waits for EXECUTE. -/
def fetched (w : Word) (s : State) : State :=
  { s with status := .run, irWord := w, irAddr := 0x0200, irValid := true, pc := 0x0202 }

/-- The next state of an operation, if it has one. -/
def next? (o : Host.Outcome State Fault Refusal) : Option State :=
  match o with
  | .next t => some t
  | _ => none

/-- EXECUTE of `w` with no key snapshot. -/
def run (w : Word) (s : State) : Option State := next? (opExecute quiet (fetched w s))

/-- EXECUTE of `w` with inputs. -/
def runWith (inp : Inputs) (w : Word) (s : State) : Option State := next? (opExecute inp (fetched w s))

/-- Some registers after. -/
def regsOf (rs : List Reg) (o : Option State) : Option (List Byte) := o.map fun t => rs.map t.reg

/-- pc after. -/
def pcOf (o : Option State) : Option Word := o.map (·.pc)

/-- The fault record after, if any. -/
def faultRec (o : Option State) : Option FaultRecord := o.bind (·.fault)

/-- Some bytes of memory after. -/
def bytesAfter (a len : Nat) (o : Option State) : Option (List Byte) :=
  o.map fun t => (List.range len).map fun k => t.mem.byteAt (a + k)

/-! ### Well-formed and ill-formed instructions (spec 41_flow_stack.md R127) -/

theorem test_wf_accepts_agreeing_fields : (Instr.jumpOffset 2 0x2FE).wf = true := by decide
theorem test_wf_refuses_disagreeing_fields : (Instr.jumpOffset 3 0x2FE).wf = false := by decide

/-! ### Words written out from the encodings (spec 30_encoding.md R83, R91) -/

theorem test_decode_flow :
    decode 0b0000000011101110 = .ok .ret ∧ decode 0b0001001000110100 = .ok (.jump 0x234) ∧
    decode 0b0010111111111111 = .ok (.call 0xFFF) ∧ decode 0b0011101001011100 = .ok (.skipEqImm 0xA 0x5C) ∧
    decode 0b0100101001011100 = .ok (.skipNeImm 0xA 0x5C) ∧ decode 0b0101000111100000 = .ok (.skipEqReg 1 0xE) ∧
    decode 0b1001000111100000 = .ok (.skipNeReg 1 0xE) ∧ decode 0b1011001011111110 = .ok (.jumpOffset 2 0x2FE) := by decide

theorem test_decode_alu :
    decode 0b0110101001011100 = .ok (.loadImm 0xA 0x5C) ∧ decode 0b0111101001011100 = .ok (.addImm 0xA 0x5C) ∧
    decode 0b1000000111100000 = .ok (.copyReg 1 0xE) ∧ decode 0b1000000111100001 = .ok (.orReg 1 0xE) ∧
    decode 0b1000000111100010 = .ok (.andReg 1 0xE) ∧ decode 0b1000000111100011 = .ok (.xorReg 1 0xE) ∧
    decode 0b1000000111100100 = .ok (.addReg 1 0xE) ∧ decode 0b1000000111100101 = .ok (.subReg 1 0xE) ∧
    decode 0b1000000111100110 = .ok (.shiftRight 1 0xE) ∧ decode 0b1000000111100111 = .ok (.revSubReg 1 0xE) ∧
    decode 0b1000000111101110 = .ok (.shiftLeft 1 0xE) ∧ decode 0b1100101001011100 = .ok (.random 0xA 0x5C) := by decide

theorem test_decode_index :
    decode 0b1010001011111110 = .ok (.loadIndex 0x2FE) ∧ decode 0b1111101000011110 = .ok (.addIndex 0xA) ∧
    decode 0b1111101000101001 = .ok (.glyphAddr 0xA) ∧ decode 0b1111101000110011 = .ok (.storeDecimal 0xA) ∧
    decode 0b1111101001010101 = .ok (.storeRegs 0xA) ∧ decode 0b1111101001100101 = .ok (.loadRegs 0xA) := by decide

theorem test_decode_screen_timer_key :
    decode 0b0000000011100000 = .ok .clearScreen ∧ decode 0b1101000111100011 = .ok (.draw 1 0xE 3) ∧
    decode 0b1111101000000111 = .ok (.readDelay 0xA) ∧ decode 0b1111101000010101 = .ok (.setDelay 0xA) ∧
    decode 0b1111101000011000 = .ok (.setSound 0xA) ∧ decode 0b1110101010011110 = .ok (.skipKeyHeld 0xA) ∧
    decode 0b1110101010100001 = .ok (.skipKeyNotHeld 0xA) ∧ decode 0b1111101000001010 = .ok (.waitKey 0xA) := by decide

/-- D6. -/
theorem test_decode_rejects :
    decode 0x0000 = .error .family0 ∧ decode 0x00E1 = .error .family0 ∧ decode 0x00FF = .error .family0 ∧
    decode 0x5121 = .error .family5 ∧ decode 0x800F = .error .family8 ∧ decode 0x9AB3 = .error .family9 ∧
    decode 0xE000 = .error .familyE ∧ decode 0xF0FF = .error .familyF ∧ decodeBytes [0x12] = .error .truncated := by decide

theorem test_encode_words :
    encode (.draw 1 0xE 3) = 0xD1E3 ∧ encode (.jumpOffset 2 0x2FE) = 0xB2FE ∧ encode (.shiftLeft 1 2) = 0x812E ∧
    encodeBytes (.loadRegs 2) = [0xF2, 0x65] := by decide

/-! ### Fetch, the cycle and the step -/

/-- The reset state with a program loaded at 0x200 (through LOAD_PROGRAM). -/
def loaded (bytes : List Byte) : State := copyIn State.reset 0x200 bytes

/-- D1. -/
theorem test_fetch_latches :
    (next? (opFetch (loaded [0x12, 0x34]))).map (fun t => (t.irWord, t.irAddr, t.irValid, t.pc, t.status)) =
      some (0x1234, 0x0200, true, 0x0202, .run) := by decide

/-- D4, D5. -/
theorem test_fetch_outside_memory :
    faultRec (next? (opFetch { State.reset with pc := 0x0FFF })) = some ⟨.outOfBounds, some 0x0FFF, none, some 0x1000⟩ ∧
    faultRec (next? (opFetch { State.reset with pc := 0x1000 })) = some ⟨.outOfBounds, some 0x1000, none, some 0x1000⟩ := by
  decide

/-- D6 and D8: an illegal word faults at EXECUTE; a second FETCH is refused. -/
theorem test_illegal_word_and_double_fetch :
    faultRec (run 0x8008 State.reset) = some ⟨.decodeError, some 0x0200, some 0x8008, none⟩ ∧
    next? (opFetch (fetched 0x00E0 State.reset)) = none := by decide

/-- A step of the reset state with a word placed runs that word. -/
theorem test_step_runs_placed_word :
    regsOf [0xA] (next? (step (State.reset.withFetchWord 16 0x6A42))) = some [0x42] ∧
    pcOf (next? (step (State.reset.withFetchWord 16 0x6A42))) = some 0x0202 := by decide

/-! ### Control flow and the call stack -/

theorem test_ret_underflow :
    faultRec (run 0x00EE State.reset) = some ⟨.stackUnderflow, some 0x0200, some 0x00EE, some 0⟩ := by decide  -- C6

theorem test_ret_pops :
    (run 0x00EE { State.reset with stack := Vector.replicate 32 0x0345, sp := 2 }).map (fun t => (t.pc, t.sp)) =
      some (0x0345, 1) := by decide  -- R120

theorem test_jump : pcOf (run 0x1FFF State.reset) = some 0x0FFF := by decide  -- C1

theorem test_call_pushes :
    (run 0x2300 { State.reset with sp := 31 }).map (fun t => (t.stack.get 31, t.sp, t.pc)) = some (0x0202, 32, 0x0300) := by
  decide  -- C4

theorem test_call_overflow :
    faultRec (run 0x2300 { State.reset with sp := 32 }) = some ⟨.stackOverflow, some 0x0200, some 0x2300, some 32⟩ := by
  decide  -- C5

theorem test_skip_immediate :
    pcOf (run 0x3F01 (withRegs [(15, 1)])) = some 0x0204 ∧ pcOf (run 0x4F01 (withRegs [(15, 1)])) = some 0x0202 := by
  decide  -- C7

theorem test_skip_registers :
    pcOf (run 0x5120 (withRegs [(1, 7), (2, 7)])) = some 0x0204 ∧
    pcOf (run 0x9120 (withRegs [(1, 7), (2, 7)])) = some 0x0202 := by decide  -- C8

theorem test_jump_offset_modern : pcOf (run 0xB2FE (withRegs [(2, 2), (0, 0x10)])) = some 0x0300 := by decide  -- C9

theorem test_jump_offset_legacy :
    pcOf (run 0xB2FE { withRegs [(2, 2), (0, 0x10)] with cfg := { jumpOffsetLegacy := true } }) = some 0x030E := by
  decide  -- C9

/-! ### The register ALU -/

theorem test_load_immediate : regsOf [0xA] (run 0x6A42 State.reset) = some [0x42] := by decide  -- A1

theorem test_add_immediate_wraps : regsOf [0, 15] (run 0x7001 (withRegs [(0, 0xFF), (15, 1)])) = some [0x00, 0x01] := by
  decide  -- A2

theorem test_copy : regsOf [0, 1] (run 0x8010 (withRegs [(1, 0xAA)])) = some [0xAA, 0xAA] := by decide  -- A4

theorem test_logic :
    regsOf [0, 15] (run 0x8011 (withRegs [(0, 0xF0), (1, 0x0F), (15, 0x77)])) = some [0xFF, 0x77] ∧
    regsOf [0, 15] (run 0x8012 (withRegs [(0, 0xF0), (1, 0x0F), (15, 0x77)])) = some [0x00, 0x77] ∧
    regsOf [0, 15] (run 0x8013 (withRegs [(0, 0xF0), (1, 0x0F), (15, 0x77)])) = some [0xFF, 0x77] := by decide  -- A5

theorem test_add_carry : regsOf [0, 15] (run 0x8014 (withRegs [(0, 0xFF), (1, 1)])) = some [0x00, 1] := by decide  -- A6

theorem test_add_into_vf : regsOf [15] (run 0x8F14 (withRegs [(15, 1), (1, 1)])) = some [0] := by decide  -- A8

theorem test_sub_borrow : regsOf [0, 15] (run 0x8015 (withRegs [(0, 3), (1, 5)])) = some [0xFE, 0] := by decide  -- A11

theorem test_sub_reads_old_vf : regsOf [0, 15] (run 0x80F5 (withRegs [(0, 5), (15, 7)])) = some [0xFE, 0] := by
  decide  -- A13

theorem test_reverse_sub : regsOf [0, 15] (run 0x8017 (withRegs [(0, 5), (1, 3)])) = some [0xFE, 0] := by decide  -- A16

theorem test_reverse_sub_no_borrow : regsOf [0, 15] (run 0x8017 (withRegs [(0, 3), (1, 5)])) = some [0x02, 1] := by
  decide  -- A15

theorem test_shift_right : regsOf [1, 15] (run 0x8126 (withRegs [(2, 5)])) = some [0x02, 1] := by decide  -- A17

theorem test_shift_right_in_place :
    regsOf [1, 15] (run 0x8126 { withRegs [(1, 0x81)] with cfg := { shiftVxInPlace := true } }) = some [0x40, 1] := by
  decide  -- A18

theorem test_shift_left : regsOf [1, 15] (run 0x812E (withRegs [(2, 0x81)])) = some [0x02, 1] := by decide  -- A20

theorem test_shift_left_into_vf : regsOf [15] (run 0x8F1E (withRegs [(1, 0x40)])) = some [0] := by decide  -- A23

theorem test_random : regsOf [3] (runWith ⟨none, 0xAB, 0⟩ 0xC30F State.reset) = some [0x0B] := by decide  -- A24

/-! ### The Index register and memory transfers -/

theorem test_load_index : (run 0xAFFF State.reset).map (·.index) = some 0x0FFF := by decide  -- M1

theorem test_add_index_no_flag :
    (run 0xF21E { withRegs [(2, 1), (15, 0x55)] with index := 0x0FFF }).map (fun t => (t.index, t.reg 15)) =
      some (0x1000, 0x55) := by decide  -- M2

theorem test_add_index_old_vf :
    (run 0xFF1E { withRegs [(15, 0x10)] with index := 0x0FF0, cfg := { indexAddCarry := true } }).map
      (fun t => (t.index, t.reg 15)) = some (0x1000, 1) := by decide  -- M5

theorem test_glyph_address : (run 0xF029 (withRegs [(0, 0xFF)])).map (·.index) = some 0x054B := by decide  -- M8

theorem test_store_decimal :
    bytesAfter 0x2FF 5 (run 0xF033 { withRegs [(0, 0x80)] with index := 0x0300 }) = some [0, 1, 2, 8, 0] := by decide  -- M10

theorem test_store_decimal_outside :
    faultRec (run 0xF033 { State.reset with index := 0x0FFE }) =
      some ⟨.outOfBounds, some 0x0200, some 0xF033, some 0x1000⟩ := by decide  -- M12

theorem test_store_registers_legacy :
    (run 0xF055 { withRegs [(0, 0x11)] with index := 0x0400, cfg := { registerSaveLegacy := true } }).map
      (fun t => (t.mem.byteAt 0x400, t.index)) = some (0x11, 0x0401) := by decide  -- M14

theorem test_store_registers_outside :
    (run 0xFF55 { withRegs [(0, 0x11)] with index := 0x0FF1, cfg := { registerSaveLegacy := true } }).map
      (fun t => (t.fault, t.mem, t.index)) =
      some (some ⟨.outOfBounds, some 0x0200, some 0xFF55, some 0x1000⟩, [], 0x0FF1) := by decide  -- M16

theorem test_load_registers :
    (run 0xF265 { State.reset with
      mem := [(0x400, 0x11), (0x401, 0x22), (0x402, 0x33)], index := 0x0400, cfg := { registerSaveLegacy := true } }).map
      (fun t => ([t.reg 0, t.reg 1, t.reg 2, t.reg 3], t.index)) = some ([0x11, 0x22, 0x33, 0], 0x0403) := by decide  -- M18

theorem test_load_registers_outside :
    faultRec (run 0xF165 { State.reset with index := 0x0FFF }) =
      some ⟨.outOfBounds, some 0x0200, some 0xF165, some 0x1000⟩ := by decide  -- M17

/-! ### The framebuffer -/

theorem test_clear_screen :
    (run 0x00E0 { State.reset with fb := Vector.replicate 32 0xFF }).map (·.fb.toList) = some (List.replicate 32 0) := by
  decide  -- S12

theorem test_sprite_mask :
    spriteMask 56 0xFF = 0xFF ∧ spriteMask 57 0xFF = 0x7F ∧ spriteMask 63 0xFF = 1 ∧ spriteMask 62 0xC3 = 3 := by
  decide  -- S2, S3, S4, S13

theorem test_draw_wraps_start :
    (run 0xD011 { withRegs [(0, 0x45), (1, 0x21)] with index := 0x300, mem := [(0x300, 0xF0)] }).map
      (fun t => (t.fb.get 0, t.fb.get 1, t.reg 15)) = some (0, 0x0780000000000000, 0) := by decide  -- S5

theorem test_draw_clips_rows :
    (run 0xD013 { withRegs [(1, 31)] with index := 0x300, mem := [(0x300, 0xFF), (0x301, 0xFF), (0x302, 0xFF)] }).map
      (fun t => (t.fb.get 31, t.fb.get 0, t.fb.get 1)) = some (0xFF00000000000000, 0, 0) := by decide  -- S6

/-! ### Timers and keys -/

theorem test_tick :
    (next? (opTick { State.reset with dt := 1, st := 0xFF })).map (fun t => (t.dt, t.st)) = some (0, 0xFE) ∧
    (next? (opTick State.reset)).map (fun t => (t.dt, t.st)) = some (0, 0) := by decide  -- T1, T2

theorem test_delay_timer :
    (run 0xF415 (withRegs [(4, 0x3C)])).map (·.dt) = some 0x3C ∧
    regsOf [5] (run 0xF507 { State.reset with dt := 0x3C }) = some [0x3C] := by decide  -- T3

theorem test_sound_timer :
    (run 0xF018 (withRegs [(0, 2)])).map (fun t => (t.st, t.audioActive)) = some (2, true) ∧
    (run 0xF018 State.reset).map (fun t => (t.st, t.audioActive)) = some (0, false) := by decide  -- T4, T5

theorem test_skip_key_held :
    pcOf (runWith (held 0x0020 0) 0xE19E (withRegs [(1, 5)])) = some 0x0204 ∧
    pcOf (runWith (held 0x0020 0) 0xE1A1 (withRegs [(1, 5)])) = some 0x0202 := by decide  -- T6

theorem test_skip_key_no_snapshot :
    pcOf (run 0xE19E (withRegs [(1, 5)])) = some 0x0202 ∧ pcOf (run 0xE1A1 (withRegs [(1, 5)])) = some 0x0204 ∧
    faultRec (run 0xE19E (withRegs [(1, 0x10)])) = some ⟨.invalidKey, some 0x0200, some 0xE19E, some 0x10⟩ := by
  decide  -- T7, T8

theorem test_wait_key_retries : pcOf (run 0xF30A State.reset) = some 0x0200 := by decide  -- T9

theorem test_wait_key_pick :
    regsOf [2] (runWith (held 0x0088 3) 0xF20A State.reset) = some [3] ∧
    regsOf [2] (runWith (held 0x0088 7) 0xF20A State.reset) = some [7] := by decide  -- T10

/-! ### Reset and loading -/

theorem test_reset_checks_font_start :
    next? (opReset { fontStart := 0x1B1 } State.reset) = none ∧
    (next? (opReset { fontStart := 0x1B0 } State.reset)).map (·.cfg.fontStart) = some 0x1B0 := by decide  -- B1

theorem test_load_font :
    bytesAfter 0x050 5 (next? (opLoadFont defaultFont State.reset)) = some [0xF0, 0x90, 0x90, 0x90, 0xF0] ∧
    bytesAfter 0x09B 6 (next? (opLoadFont defaultFont State.reset)) = some [0xF0, 0x80, 0xF0, 0x80, 0x80, 0x00] := by
  decide  -- E12

theorem test_load_font_wrong_size :
    faultRec (next? (opLoadFont (List.replicate 79 1) State.reset)) = some ⟨.fontSizeInvalid, none, none, some 79⟩ := by
  decide  -- B4

theorem test_load_program :
    bytesAfter 0x1FF 6 (next? (opLoadProgram [0x00, 0xE0, 0x12, 0x00] State.reset)) =
      some [0, 0x00, 0xE0, 0x12, 0x00, 0] ∧
    next? (opLoadProgram [0x12] (fetched 0x1200 State.reset)) = none := by decide  -- P1, B5

/-! ### Witnesses: a state and operands that meet each statement's hypotheses, at the ends of each clause's range -/

/-- A state that has faulted. -/
def dead : State := (fetched 0x0123 State.reset).raise .decodeError none

theorem witness_DecodeInvertsEncode : (Instr.jumpOffset 15 0xFFF).wf = true ∧ (Instr.draw 15 15 15).wf = true := by decide

theorem witness_EncodeInvertsDecode : decode 0xBFFF = .ok (.jumpOffset 15 0xFFF) := by decide

theorem witness_DecodeAgreesWithMatchMaskTable :
    OpcodeRow.Matches ⟨0x8004, 0xF00F⟩ 0x8FE4 ∧ ⟨0x8004, 0xF00F⟩ ∈ opcodeRows ∧ decode 0x8FE4 = .ok (.addReg 15 14) := by
  decide

theorem witness_FetchLatchesWordOrFaults :
    (State.reset.status ≠ .faulted ∧ State.reset.irValid = false) ∧
    (0x0FFE : Word).toNat + 1 < 4096 ∧ 4096 ≤ (0x0FFF : Word).toNat + 1 := by decide

theorem witness_StepRunsDecodedInstruction :
    (loaded [0x60, 0x05]).requests = [] ∧ (loaded [0x60, 0x05]).status ≠ .faulted ∧
    (loaded [0x60, 0x05]).irValid = false ∧ (loaded [0x60, 0x05]).pc.toNat + 1 < 4096 ∧
    decode (Claim.wordAtPc (loaded [0x60, 0x05])) = .ok (.loadImm 0 5) := by decide

theorem witness_StepRunsDecodedInstruction_last_word :
    decode (Claim.wordAtPc { State.reset with pc := 0x0FFE, mem := [(0xFFE, 0x60), (0xFFF, 0x05)] }) =
      .ok (.loadImm 0 5) := by decide

theorem witness_RequestedFetchThenExecuteRunsInstruction :
    ∃ s : State, s.requests = [.fetch, .execute (held 0x0020 0)] ∧ s.status ≠ .faulted ∧ s.irValid = false ∧
      s.pc.toNat + 1 < 4096 ∧ decode (Claim.wordAtPc s) = .ok (.skipKeyHeld 1) :=
  ⟨{ loaded [0xE1, 0x9E] with requests := [.fetch, .execute (held 0x0020 0)] }, by decide⟩

theorem witness_PlacedWordRunsNext :
    State.reset.mem.wf ∧ State.reset.status ≠ .faulted ∧ State.reset.pc.toNat + 1 < 4096 ∧
    decodeTableWord 16 0xD013 = some (.draw 0 1 3) := by decide

theorem witness_IllegalWordRaisesDecodeError :
    (fetched 0x8008 State.reset).status = .run ∧ (fetched 0x8008 State.reset).irValid = true ∧
    ∀ row ∈ opcodeRows, ¬ row.Matches (fetched 0x8008 State.reset).irWord := by decide

/-- The depths that the stack statements' clauses end at. -/
theorem witness_stack_depths :
    ({ State.reset with sp := 0 } : State).sp.val = (0 : Fin 32).val ∧
    ({ State.reset with sp := 31 } : State).sp.val = (31 : Fin 32).val ∧
    ({ State.reset with sp := 1 } : State).sp.val = (0 : Fin 32).val + 1 ∧
    ({ State.reset with sp := 32 } : State).sp.val = (31 : Fin 32).val + 1 ∧
    ({ State.reset with sp := 32 } : State).sp.val = 32 := by decide

theorem witness_ReturnUndoesCall :
    ({ State.reset with sp := 31 } : State).sp.val < 32 ∧
    ∃ t u : State, exec (.call 0x300) { State.reset with sp := 31 } = .next t ∧ u.stack = t.stack ∧ u.sp = t.sp ∧ u.pc ≠ t.pc :=
  ⟨by decide, _, { State.reset with stack := Vector.replicate 32 0 |>.set 31 0x0200, sp := 32 }, rfl, by decide, by decide,
    by decide⟩

theorem witness_SkipComparesRegisterWithImmediate :
    (withRegs [(15, 1)]).reg 15 = 1 ∧ (withRegs [(15, 1)]).reg 15 ≠ 2 := by decide

theorem witness_SkipComparesTwoRegisters :
    (withRegs [(1, 7)]).reg 1 = (withRegs [(1, 7)]).reg 1 ∧ (withRegs [(1, 7)]).reg 1 ≠ (withRegs [(1, 7)]).reg 2 ∧
    (0x512F : Word).extractLsb' 0 4 ≠ 0 ∧ (0x512F : Word).extractLsb' 12 4 = 5 ∧
    (0x9121 : Word).extractLsb' 0 4 ≠ 0 ∧ (0x9121 : Word).extractLsb' 12 4 = 9 := by decide

theorem witness_JumpOffsetAddsSelectedRegister :
    (15 : Reg).val = (0xFFF : Addr12).toNat / 256 ∧ (0 : Reg).val = (0x0FF : Addr12).toNat / 256 ∧
    ({ jumpOffsetLegacy := true } : Compat).jumpOffsetLegacy = true ∧ State.reset.cfg.jumpOffsetLegacy = false := by decide

theorem witness_LoadAddImmediateAndCopy : (1 : Reg) ≠ 0 := by decide

theorem witness_AddSetsCarry :
    (1 : Reg) ≠ 15 ∧
    (((withRegs [(0, 0xFF), (1, 1)]).reg 0).toNat + ((withRegs [(0, 0xFF), (1, 1)]).reg 1).toNat = 256) ∧
    (((withRegs [(0, 0xFF)]).reg 0).toNat + ((withRegs [(0, 0xFF)]).reg 1).toNat = 255) := by decide

theorem witness_SubtractSetsNotBorrow :
    ((withRegs [(0, 4), (1, 5)]).reg 0).toNat < ((withRegs [(0, 4), (1, 5)]).reg 1).toNat ∧
    ((withRegs [(0, 5), (1, 5)]).reg 1).toNat ≤ ((withRegs [(0, 5), (1, 5)]).reg 0).toNat := by decide

theorem witness_ShiftsMoveOneBitIntoVF :
    (∃ s : State, s.cfg.shiftVxInPlace = true ∧ (s.cfg.shiftVxInPlace = true → (1 : Reg) = 1) ∧
      (s.cfg.shiftVxInPlace = false → (1 : Reg) = 2)) ∧
    (∃ s : State, s.cfg.shiftVxInPlace = false ∧ (s.cfg.shiftVxInPlace = true → (2 : Reg) = 1) ∧
      (s.cfg.shiftVxInPlace = false → (2 : Reg) = 2)) :=
  ⟨⟨State.resetWith { shiftVxInPlace := true }, by decide⟩, ⟨State.reset, by decide⟩⟩

theorem witness_FlagIsZeroOrOne :
    ∃ t, Instr.addReg 15 1 ∈ [Instr.addReg 15 1, .subReg 15 1, .shiftRight 15 1, .revSubReg 15 1, .shiftLeft 15 1] ∧
      exec (.addReg 15 1) (withRegs [(15, 0xFF), (1, 1)]) = .next t := ⟨_, by decide, rfl⟩

theorem witness_AddIndexWrapsAndFlags :
    ({ indexAddCarry := true } : Compat).indexAddCarry = true ∧ State.reset.cfg.indexAddCarry = false ∧
    0x1000 ≤ (0x0FFF : Word).toNat + ((withRegs [(2, 1)]).reg 2).toNat ∧
    (0x0FFE : Word).toNat + ((withRegs [(2, 1)]).reg 2).toNat < 0x1000 ∧ (2 : Reg) ≠ 15 := by decide

theorem witness_StoreDecimalWritesThreeDigits :
    Memory.wf [(0xFFF, 7)] ∧ (0x0FFD : Word).toNat + 3 ≤ 4096 ∧ 4096 < (0x0FFE : Word).toNat + 3 := by decide

/-- The ends of the ranges of FX55 and FX65. -/
theorem witness_register_ranges :
    Memory.wf [(0xFF0, 1), (0xFFF, 7)] ∧ (0x0FF0 : Word).toNat + (15 : Reg).val < 4096 ∧
    4096 ≤ (0x0FF1 : Word).toNat + (15 : Reg).val ∧ (0x0FFF : Word).toNat + (0 : Reg).val < 4096 ∧
    4096 ≤ (0x1000 : Word).toNat + (0 : Reg).val ∧ (3 : Reg) < 4 ∧
    ({ registerSaveLegacy := true } : Compat).registerSaveLegacy = true ∧ State.reset.cfg.registerSaveLegacy = false := by
  decide

theorem witness_LoadAfterStoreRestoresRegisters :
    ∃ t u : State, exec (.storeRegs 2) { withRegs [(0, 0x11), (1, 0x22)] with index := 0x400 } = .next t ∧ u.mem = t.mem ∧
      u.index = 0x400 ∧ u.reg 0 = 0 :=
  ⟨_, { State.reset with mem := [(0x400, 0x11), (0x401, 0x22)], index := 0x400 }, rfl, by decide, by decide, by decide⟩

theorem witness_SpriteMaskPlacesByte :
    (57 < 64 ∧ 56 < 57) ∧ 56 ≤ 56 ∧ (7 < 8 ∧ 56 + 7 ≤ 63) ∧ (1 < 8 ∧ 62 + 1 ≤ 63) ∧ (8 < 64 ∧ 0 + 8 ≤ 8) ∧ (62 < 63) := by
  decide

/-- The ends of the ranges of DXYN: no rows at any I, the last row at the last byte, one byte too far. -/
theorem witness_draw_ranges :
    ((0 : Fin 16).val = 0 ∨ (0xFFFF : Word).toNat + (0 : Fin 16).val ≤ 4096) ∧
    ((2 : Fin 16).val = 0 ∨ (0x0FFE : Word).toNat + (2 : Fin 16).val ≤ 4096) ∧
    (0 < (3 : Fin 16).val ∧ 4096 < (0x0FFE : Word).toNat + (3 : Fin 16).val) := by decide

/-- The bottom right pixel is the last one a draw can reach. -/
theorem witness_DrawStaysInItsRectangle :
    ∃ t, exec (.draw 0 1 1) { withRegs [(0, 63), (1, 31)] with index := 0x300, mem := [(0x300, 0x80)] } = .next t ∧
      pixel t.fb 63 31 ≠ pixel (withRegs [(0, 63), (1, 31)]).fb 63 31 := ⟨_, rfl, by decide⟩

theorem witness_TickCountsDown : State.reset.status ≠ .faulted ∧ dead.status = .faulted := by decide

theorem witness_AudioFollowsSoundTimer :
    (∃ t, exec (.setSound 0) (withRegs [(0, 1)]) = .next t ∧ (withRegs [(0, 1)]).st = 0 ∧ (withRegs [(0, 1)]).reg 0 ≠ 0) ∧
    (∃ t, opTick { State.reset with st := 1 } = .next t) := ⟨⟨_, rfl, by decide, by decide⟩, ⟨_, rfl⟩⟩

theorem witness_SkipTestsKey :
    ((withRegs [(1, 15)]).reg 1).toNat = (15 : Key).val ∧ keyHeld (held 0x8000 0) 15 = true ∧
    keyHeld (held 0x7FFF 0) 15 = false ∧ 16 ≤ ((withRegs [(1, 16)]).reg 1).toNat := by decide

theorem witness_WaitKeyTakesHeldKeyOrRetries :
    keyHeld (held 0x8001 15) 15 = true ∧ (held 0x8001 15).pick = 15 ∧ keyHeld (held 0x8001 7) 0 = true ∧
    (∀ k : Key, keyHeld (held 0 3) k = false) ∧ ∀ k : Key, keyHeld quiet k = false := by decide

theorem witness_NoSnapshotIsNoKeyHeld :
    State.reset.inputs.keys = none ∧ ∃ t, exec (.waitKey 2) State.reset = .next t := ⟨rfl, _, rfl⟩

/-- Each fault of the table of R220, and an instruction that raises none. -/
theorem witness_EveryInstructionCompletesWithItsOnlyFault :
    Claim.faultOf .ret State.reset = some (.stackUnderflow, 0) ∧
    Claim.faultOf (.call 0) { State.reset with sp := 32 } = some (.stackOverflow, 32) ∧
    Claim.faultOf (.loadRegs 0) { State.reset with index := 0xFFFF } = some (.outOfBounds, 0xFFFF) ∧
    Claim.faultOf (.draw 0 0 1) { State.reset with index := 0x1000 } = some (.outOfBounds, 0x1000) ∧
    Claim.faultOf (.skipKeyHeld 1) (withRegs [(1, 16)]) = some (.invalidKey, 16) ∧
    Claim.faultOf (.addReg 0 1) State.reset = none := by decide

theorem witness_OnlyListedInstructionsWriteRegisters :
    ∃ t, exec (.addReg 0 1) (withRegs [(0, 0xFF), (1, 1)]) = .next t ∧ t.reg 15 ≠ (withRegs [(0, 0xFF), (1, 1)]).reg 15 :=
  ⟨_, rfl, by decide⟩

theorem witness_PcFollowsTheTable :
    Claim.faultOf (.jumpOffset 15 0xFFF) (withRegs [(15, 0xFF)]) = none ∧
    ∃ t, exec (.jumpOffset 15 0xFFF) (withRegs [(15, 0xFF)]) = .next t := ⟨by decide, _, rfl⟩

theorem witness_OnlyListedInstructionsWriteOtherState :
    (∃ t, exec (.storeRegs 0) (withRegs [(0, 1)]) = .next t ∧ t.mem ≠ (withRegs [(0, 1)]).mem) ∧
    (∃ t, exec .clearScreen { State.reset with fb := Vector.replicate 32 1 } = .next t ∧ t.fb ≠ Vector.replicate 32 1) ∧
    (∃ t, exec (.call 0) State.reset = .next t ∧ t.sp ≠ State.reset.sp) ∧
    (∃ t, exec (.loadIndex 1) State.reset = .next t ∧ t.index ≠ State.reset.index) ∧
    (∃ t, exec (.setDelay 0) (withRegs [(0, 1)]) = .next t ∧ t.dt ≠ (withRegs [(0, 1)]).dt) ∧
    (∃ t, exec (.setSound 0) (withRegs [(0, 1)]) = .next t ∧ t.st ≠ (withRegs [(0, 1)]).st) :=
  ⟨⟨_, rfl, by decide⟩, ⟨_, rfl, by decide⟩, ⟨_, rfl, by decide⟩, ⟨_, rfl, by decide⟩, ⟨_, rfl, by decide⟩,
    ⟨_, rfl, by decide⟩⟩

theorem witness_OnlyListedInstructionsReadInputs :
    Claim.readsInputs (.draw 0 1 3) = false ∧ ∃ t, exec (.draw 0 1 3) State.reset = .next t := ⟨rfl, _, rfl⟩

theorem witness_OnlyResetLeavesFaulted :
    dead.status = .faulted ∧ dead.requests = [] ∧ (∀ cfg, Request.tick ≠ .reset cfg) ∧ Request.tick ≠ .readOutputs ∧
    ({ fontStart := 0x1B0 } : Compat).fontStart.toNat ≤ 0x1B0 :=
  ⟨by decide, by decide, by simp, by simp, by decide⟩

theorem witness_ResetGivesTheTableOfValues :
    ({ fontStart := 0x1B0 } : Compat).fontStart.toNat ≤ 0x1B0 ∧ 0x1B0 < ({ fontStart := 0x1B1 } : Compat).fontStart.toNat := by
  decide

theorem witness_LoadFontCopiesEightyBytes :
    State.reset.status = .load ∧ State.reset.mem.wf ∧ State.reset.cfg.fontStart.toNat ≤ 0x1B0 ∧ defaultFont.length = 80 ∧
    (List.replicate 79 (1 : Byte)).length ≠ 80 := by decide

theorem witness_LoadProgramCopiesBytes :
    dead.status ≠ .load ∧ State.reset.status = .load ∧ State.reset.mem.wf ∧ (List.replicate 3584 (1 : Byte)).length ≤ 3584 ∧
    3584 < (List.replicate 3585 (1 : Byte)).length := ⟨by decide, by decide, by decide, by rw [List.length_replicate],
    by rw [List.length_replicate]; decide⟩

/-- The reset state meets the invariant, and a step from it with a program loaded and a FETCH requested goes on. -/
theorem witness_StepKeepsInvariant :
    ∃ t, Invariant { loaded [0x12, 0x00] with requests := [.fetch] } ∧
      step { loaded [0x12, 0x00] with requests := [.fetch] } = .next t :=
  ⟨_, ⟨by decide, by decide, by decide, by decide, by decide, by decide, by decide, by decide⟩, rfl⟩

theorem witness_StepKeepsConfigurationUnlessReset :
    ∃ t, step { State.reset with requests := [.tick] } = .next t ∧
      (∀ cfg rest, ({ State.reset with requests := [.tick] } : State).requests ≠ .reset cfg :: rest) ∧
      State.reset.exited = false := ⟨_, rfl, by simp, rfl⟩

theorem witness_ResetAloneReturnsToLoadAndFaultedHoldsRecord :
    (∃ t, step { dead with requests := [.reset {}] } = .next t ∧ dead.status = .faulted ∧ t.status ≠ .faulted) ∧
    (∃ t, step { fetched 0x0123 State.reset with requests := [.execute quiet] } = .next t ∧ t.status = .faulted) ∧
    (∃ t, step { fetched 0x00E0 State.reset with requests := [.reset {}] } = .next t ∧ t.status = .load) :=
  ⟨⟨_, rfl, by decide, by decide⟩, ⟨_, rfl, by decide⟩, ⟨_, rfl, by decide⟩⟩

end Sys2Proof.Machine.Test
end

section
/-! PROOFS. What an instruction can touch, said once: which parts of the state it writes, and that it leaves the rest
alone or raises its one fault (spec 10_state.md R22-R39, 60_exceptions.md R220). -/

namespace Sys2Proof.Machine

open Claim

/-- The parts of the state that instructions write. -/
inductive Part where
  | regs | index | pc | callStack | delay | sound | screen | memory
  deriving DecidableEq

/-- The parts an instruction may write when it raises no fault. -/
def parts : Instr → List Part
  | .clearScreen | .draw _ _ _ => [.screen]
  | .ret | .call _ => [.callStack, .pc]
  | .jump _ | .jumpOffset _ _ | .skipEqImm _ _ | .skipNeImm _ _ | .skipEqReg _ _ | .skipNeReg _ _ | .skipKeyHeld _
  | .skipKeyNotHeld _ => [.pc]
  | .loadImm _ _ | .addImm _ _ | .copyReg _ _ | .orReg _ _ | .andReg _ _ | .xorReg _ _ | .addReg _ _ | .subReg _ _
  | .shiftRight _ _ | .revSubReg _ _ | .shiftLeft _ _ | .random _ _ | .readDelay _ => [.regs]
  | .waitKey _ => [.regs, .pc]
  | .loadIndex _ | .glyphAddr _ => [.index]
  | .addIndex _ | .loadRegs _ => [.regs, .index]
  | .setDelay _ => [.delay]
  | .setSound _ => [.sound]
  | .storeDecimal _ => [.memory]
  | .storeRegs _ => [.memory, .index]

/-- The instruction may write the part. -/
def writes (i : Instr) (p : Part) : Bool := (parts i).contains p

/-- `t` differs from `s` at most in the parts that `w` names. -/
structure UnchangedOutside (w : Part → Bool) (s t : State) : Prop where
  regs : w .regs = false → t.v = s.v
  index : w .index = false → t.index = s.index
  pc : w .pc = false → t.pc = s.pc
  stack : w .callStack = false → t.stack = s.stack
  sp : w .callStack = false → t.sp = s.sp
  delay : w .delay = false → t.dt = s.dt
  sound : w .sound = false → t.st = s.st
  screen : w .screen = false → t.fb = s.fb
  memory : w .memory = false → t.mem = s.mem
  cfg : t.cfg = s.cfg
  irWord : t.irWord = s.irWord
  irAddr : t.irAddr = s.irAddr
  irValid : t.irValid = s.irValid
  status : t.status = s.status
  fault : t.fault = s.fault
  exited : t.exited = s.exited
  inputs : t.inputs = s.inputs
  requests : t.requests = s.requests
  draws : t.draws = s.draws

namespace UnchangedOutside

variable {w : Part → Bool} {s t u : State}

/-! ### Each update of the state touches its own part -/

theorem refl : UnchangedOutside w s s := by constructor <;> intros <;> rfl

theorem setRegs (h : UnchangedOutside w s u) (hw : w .regs = true) (v : Vector Byte 16) :
    UnchangedOutside w s (u.setRegs v) := { h with regs := by simp [hw] }

theorem setReg (h : UnchangedOutside w s u) (hw : w .regs = true) (r : Reg) (b : Byte) :
    UnchangedOutside w s (u.setReg r b) := h.setRegs hw _

theorem setResultAndFlag (h : UnchangedOutside w s u) (hw : w .regs = true) (x : Reg) (res f : Byte) :
    UnchangedOutside w s (u.setResultAndFlag x res f) := (h.setReg hw _ _).setReg hw _ _

theorem setIndex (h : UnchangedOutside w s u) (hw : w .index = true) (a : Word) :
    UnchangedOutside w s (u.setIndex a) := { h with index := by simp [hw] }

theorem setPc (h : UnchangedOutside w s u) (hw : w .pc = true) (a : Word) :
    UnchangedOutside w s (u.setPc a) := { h with pc := by simp [hw] }

theorem setCallStack (h : UnchangedOutside w s u) (hw : w .callStack = true) (stack : Vector Word 32) (sp : Fin 33) :
    UnchangedOutside w s (u.setCallStack stack sp) := { h with stack := by simp [hw], sp := by simp [hw] }

theorem setDelay (h : UnchangedOutside w s u) (hw : w .delay = true) (b : Byte) :
    UnchangedOutside w s (u.setDelay b) := { h with delay := by simp [hw] }

theorem setSound (h : UnchangedOutside w s u) (hw : w .sound = true) (b : Byte) :
    UnchangedOutside w s (u.setSound b) := { h with sound := by simp [hw] }

theorem setFb (h : UnchangedOutside w s u) (hw : w .screen = true) (fb : Vector FbRow 32) :
    UnchangedOutside w s (u.setFb fb) := { h with screen := by simp [hw] }

theorem setMem (h : UnchangedOutside w s u) (hw : w .memory = true) (m : Memory) :
    UnchangedOutside w s (u.setMem m) := { h with memory := by simp [hw] }

/-- A conditional skip touches pc only. -/
theorem skipIf (hw : w .pc = true) (c : Prop) [Decidable c] : UnchangedOutside w s (if c then s.skip else s) := by
  split
  · exact refl.setPc hw _
  · exact refl

/-- A conditional skip with its branches exchanged. -/
theorem skipUnless (hw : w .pc = true) (c : Prop) [Decidable c] : UnchangedOutside w s (if c then s else s.skip) := by
  split
  · exact refl
  · exact refl.setPc hw _

/-- Read off the next state of a meaning. -/
theorem of_next (h : Host.Outcome.next (φ := Fault) (ρ := Refusal) u = .next t) (hu : UnchangedOutside w s u) :
    UnchangedOutside w s t := Host.Outcome.next.inj h ▸ hu

end UnchangedOutside

/-! ### Instructions -/

/-- An instruction raises the fault that the table of R220 gives it. -/
theorem exec_raises {i : Instr} {s : State} {kind : FaultKind} {info : Nat} (h : faultOf i s = some (kind, info)) :
    exec i s = .next (s.raise kind (some info)) := by
  cases i with
  | ret =>
    obtain ⟨h0, ⟨⟩⟩ := Option.ite_none_right_eq_some.1 h
    exact execRet_empty s h0
  | call nnn =>
    obtain ⟨h0, ⟨⟩⟩ := Option.ite_none_right_eq_some.1 h
    exact execCall_full nnn s h0
  | storeDecimal x =>
    obtain ⟨h0, ⟨⟩⟩ := Option.ite_none_right_eq_some.1 h
    exact execStoreDecimal_fault x s h0
  | storeRegs x =>
    obtain ⟨h0, ⟨⟩⟩ := Option.ite_none_right_eq_some.1 h
    exact execStoreRegs_fault x s h0
  | loadRegs x =>
    obtain ⟨h0, ⟨⟩⟩ := Option.ite_none_right_eq_some.1 h
    exact execLoadRegs_fault x s h0
  | draw x y n =>
    obtain ⟨⟨hn, h0⟩, ⟨⟩⟩ := Option.ite_none_right_eq_some.1 h
    exact execDraw_fault x y n s hn h0
  | skipKeyHeld x =>
    obtain ⟨h0, ⟨⟩⟩ := Option.ite_none_right_eq_some.1 h
    exact execSkipKeyHeld_fault x s h0
  | skipKeyNotHeld x =>
    obtain ⟨h0, ⟨⟩⟩ := Option.ite_none_right_eq_some.1 h
    exact execSkipKeyNotHeld_fault x s h0
  | _ => cases h

/-- An instruction that raises no fault changes only its parts. -/
theorem exec_unchangedOutside {i : Instr} {s t : State} (hf : faultOf i s = none) (h : exec i s = .next t) :
    UnchangedOutside (writes i) s t := by
  cases i with
  | clearScreen => exact .of_next h (.setFb .refl rfl _)
  | ret =>
    have h0 : s.sp.val ≠ 0 := by simpa [faultOf] using hf
    exact .of_next ((execRet_ok s h0).symm.trans h) (.setPc (.setCallStack .refl rfl _ _) rfl _)
  | jump nnn | jumpOffset x nnn => exact .of_next h (.setPc .refl rfl _)
  | call nnn =>
    have h0 : s.sp.val ≠ 32 := by simpa [faultOf] using hf
    exact .of_next ((execCall_ok nnn s (by omega)).symm.trans h) (.setPc (.setCallStack .refl rfl _ _) rfl _)
  | skipEqImm x nn | skipNeImm x nn | skipEqReg x y | skipNeReg x y => exact .of_next h (.skipIf rfl _)
  | loadImm x nn | addImm x nn | copyReg x y | orReg x y | andReg x y | xorReg x y | random x nn | readDelay x =>
    exact .of_next h (.setReg .refl rfl _ _)
  | addReg x y | subReg x y | shiftRight x y | revSubReg x y | shiftLeft x y =>
    exact .of_next h (.setResultAndFlag .refl rfl _ _ _)
  | loadIndex nnn | glyphAddr x => exact .of_next h (.setIndex .refl rfl _)
  | draw x y n =>
    have h0 : n.val = 0 ∨ s.index.toNat + n.val ≤ 4096 := by
      simp only [faultOf, ite_eq_right_iff, reduceCtorEq, imp_false] at hf
      omega
    exact .of_next ((execDraw_next x y n s h0).symm.trans h) (.setFb .refl rfl _)
  | skipKeyHeld x =>
    have h0 : (s.reg x).toNat < 16 := by simpa [faultOf] using hf
    exact .of_next ((execSkipKeyHeld_next x s h0).symm.trans h) (.skipIf rfl _)
  | skipKeyNotHeld x =>
    have h0 : (s.reg x).toNat < 16 := by simpa [faultOf] using hf
    exact .of_next ((execSkipKeyNotHeld_next x s h0).symm.trans h) (.skipUnless rfl _)
  | waitKey x =>
    cases hk : pressedKey s.inputs with
    | some k => exact .of_next ((execWaitKey_held x s hk).symm.trans h) (.setReg .refl rfl _ _)
    | none => exact .of_next ((execWaitKey_none x s hk).symm.trans h) (.setPc .refl rfl _)
  | setDelay x => exact .of_next h (.setDelay .refl rfl _)
  | setSound x => exact .of_next h (.setSound .refl rfl _)
  | addIndex x =>
    cases hc : s.cfg.indexAddCarry with
    | true => exact .of_next ((execAddIndex_carry x s hc).symm.trans h) (.setReg (.setIndex .refl rfl _) rfl _ _)
    | false => exact .of_next ((execAddIndex_plain x s hc).symm.trans h) (.setIndex .refl rfl _)
  | storeDecimal x =>
    have h0 : s.index.toNat + 3 ≤ 4096 := by simpa [faultOf] using hf
    obtain ⟨m, -, hm⟩ := execStoreDecimal_next x s h0
    exact .of_next (hm.symm.trans h) (.setMem .refl rfl _)
  | storeRegs x =>
    have h0 : s.index.toNat + (x.val + 1) ≤ 4096 := by simpa [faultOf] using hf
    obtain ⟨m, -, hm⟩ := execStoreRegs_next x s h0
    exact .of_next (hm.symm.trans h) (.setIndex (.setMem .refl rfl _) rfl _)
  | loadRegs x =>
    have h0 : s.index.toNat + (x.val + 1) ≤ 4096 := by simpa [faultOf] using hf
    exact .of_next ((execLoadRegs_next x s h0).symm.trans h) (.setIndex (.setRegs .refl rfl _) rfl _)

/-- Everything an instruction can do: change only its parts, or raise the fault that the table of R220 gives it. -/
theorem exec_cases {i : Instr} {s t : State} (h : exec i s = .next t) :
    (faultOf i s = none ∧ UnchangedOutside (writes i) s t) ∨
      ∃ kind info, faultOf i s = some (kind, info) ∧ t = s.raise kind (some info) := by
  cases hf : faultOf i s with
  | none => exact .inl ⟨rfl, exec_unchangedOutside hf h⟩
  | some f =>
    obtain ⟨kind, info⟩ := f
    rw [exec_raises hf] at h
    exact .inr ⟨kind, info, rfl, (Host.Outcome.next.inj h).symm⟩

end Sys2Proof.Machine
end

section
/-! PROOFS. Which instruction writes which part of the state (spec 10_state.md R22, R23, R25, R28, R35, R39,
20_memory.md R59, 44_framebuffer_sprite.md R180). -/

namespace Sys2Proof.Machine

open Claim

/-! ### Registers (R22) -/

theorem State.reg_setReg_changed {s : State} {x r : Reg} {b : Byte} (h : (s.setReg x b).reg r ≠ s.reg r) : r = x := by
  by_contra hne
  exact h (State.reg_setReg_ne s b hne)

theorem State.reg_setResultAndFlag_changed {s : State} {x r : Reg} {res f : Byte}
    (h : (s.setResultAndFlag x res f).reg r ≠ s.reg r) : r = x ∨ r = 15 := by
  by_contra hne
  obtain ⟨hx, hf⟩ := not_or.1 hne
  exact h (by rw [State.reg_setResultAndFlag, if_neg hf, if_neg hx])

/-- Loading bytes from register 0 on changes no register past the last byte. -/
theorem State.reg_setRegs_regsWith_changed {s : State} {r : Reg} {bs : List Byte}
    (h : (s.setRegs (regsWith s.v 0 bs)).reg r ≠ s.reg r) : r.val < bs.length := by
  by_contra hge
  exact h (by simp [State.reg, Vector.get_eq_getElem, regsWith_getElem, hge])

/-- Settles O42: the table of parts leaves the listed writers, and each of these changes only its destinations. -/
theorem onlyListedInstructionsWriteRegisters : Obligations.OnlyListedInstructionsWriteRegisters := by
  intro i s t r h hr
  obtain ⟨hf, hu⟩ | ⟨kind, info, -, rfl⟩ := exec_cases h
  case inr => exact absurd rfl hr
  cases i with
  | loadImm x nn | addImm x nn | copyReg x y | orReg x y | andReg x y | xorReg x y | random x nn | readDelay x =>
    obtain rfl := Host.Outcome.next.inj h
    simpa [writesReg] using State.reg_setReg_changed hr
  | addReg x y | subReg x y | shiftRight x y | revSubReg x y | shiftLeft x y =>
    obtain rfl := Host.Outcome.next.inj h
    simpa [writesReg] using State.reg_setResultAndFlag_changed hr
  | waitKey x =>
    cases hk : pressedKey s.inputs with
    | some k =>
      obtain rfl := Host.Outcome.next.inj ((execWaitKey_held x s hk).symm.trans h)
      simpa [writesReg, State.reg_setReg_changed hr] using ⟨k, pressedKey_held hk⟩
    | none =>
      obtain rfl := Host.Outcome.next.inj ((execWaitKey_none x s hk).symm.trans h)
      exact absurd rfl hr
  | addIndex x =>
    cases hc : s.cfg.indexAddCarry with
    | true =>
      obtain rfl := Host.Outcome.next.inj ((execAddIndex_carry x s hc).symm.trans h)
      simpa [writesReg, hc] using State.reg_setReg_changed hr
    | false =>
      obtain rfl := Host.Outcome.next.inj ((execAddIndex_plain x s hc).symm.trans h)
      exact absurd rfl hr
  | loadRegs x =>
    have h0 : s.index.toNat + (x.val + 1) ≤ 4096 := by simpa [faultOf] using hf
    obtain rfl := Host.Outcome.next.inj ((execLoadRegs_next x s h0).symm.trans h)
    have hlt := State.reg_setRegs_regsWith_changed hr
    simp only [List.length_map, List.length_range] at hlt
    exact decide_eq_true (Nat.le_of_lt_succ hlt)
  | _ => exact absurd (State.reg_of_v_eq (hu.regs rfl) r) hr

/-! ### pc (R25) -/

/-- A number below 16 is held as a key exactly when it is the number of a held key. -/
theorem exists_key_held_iff {inp : Inputs} {n : Nat} (h : n < 16) :
    (∃ k : Key, n = k.val ∧ keyHeld inp k = true) ↔ keyHeld inp ⟨n, h⟩ = true := by
  constructor
  · rintro ⟨k, rfl, hk⟩
    exact hk
  · exact fun hk => ⟨⟨n, h⟩, rfl, hk⟩

/-- Settles O43: a writer of pc in the table of R25 writes what the table says, and every other instruction keeps it. -/
theorem pcFollowsTheTable : Obligations.PcFollowsTheTable := by
  intro i s t hf h
  cases i with
  | jump nnn | jumpOffset x nnn =>
    obtain rfl := Host.Outcome.next.inj h
    rfl
  | call nnn =>
    have h0 : s.sp.val ≠ 32 := by simpa [faultOf] using hf
    obtain rfl := Host.Outcome.next.inj ((execCall_ok nnn s (by omega)).symm.trans h)
    rfl
  | ret =>
    have h0 : s.sp.val ≠ 0 := by simpa [faultOf] using hf
    obtain rfl := Host.Outcome.next.inj ((execRet_ok s h0).symm.trans h)
    have hlt : s.sp.val - 1 < 32 := by omega
    simp [pcAfter, Vector.get_eq_getElem, hlt]
  | skipEqImm x nn | skipNeImm x nn | skipEqReg x y | skipNeReg x y =>
    obtain rfl := Host.Outcome.next.inj h
    simp [pcAfter, apply_ite State.pc]
  | skipKeyHeld x =>
    have h0 : (s.reg x).toNat < 16 := by simpa [faultOf] using hf
    obtain rfl := Host.Outcome.next.inj ((execSkipKeyHeld_next x s h0).symm.trans h)
    simp only [pcAfter, exists_key_held_iff h0, apply_ite State.pc, State.skip_pc]
  | skipKeyNotHeld x =>
    have h0 : (s.reg x).toNat < 16 := by simpa [faultOf] using hf
    obtain rfl := Host.Outcome.next.inj ((execSkipKeyNotHeld_next x s h0).symm.trans h)
    simp only [pcAfter, exists_key_held_iff h0, apply_ite State.pc, State.skip_pc]
  | waitKey x =>
    cases hk : pressedKey s.inputs with
    | some k =>
      obtain rfl := Host.Outcome.next.inj ((execWaitKey_held x s hk).symm.trans h)
      exact (if_pos ⟨k, pressedKey_held hk⟩).symm
    | none =>
      obtain rfl := Host.Outcome.next.inj ((execWaitKey_none x s hk).symm.trans h)
      have hno := (pressedKey_eq_none s.inputs).1 hk
      simp [pcAfter, hno]
  | _ => exact (exec_unchangedOutside hf h).pc rfl

/-! ### The other parts (R23, R28, R35, R39, R59, R180) -/

theorem eq_of_writes_memory {i : Instr} (h : writes i .memory = true) : ∃ x, i = .storeDecimal x ∨ i = .storeRegs x := by
  cases i with
  | storeDecimal x => exact ⟨x, .inl rfl⟩
  | storeRegs x => exact ⟨x, .inr rfl⟩
  | _ => cases h

theorem eq_of_writes_screen {i : Instr} (h : writes i .screen = true) : i = .clearScreen ∨ ∃ x y n, i = .draw x y n := by
  cases i with
  | clearScreen => exact .inl rfl
  | draw x y n => exact .inr ⟨x, y, n, rfl⟩
  | _ => cases h

theorem eq_of_writes_callStack {i : Instr} (h : writes i .callStack = true) : i = .ret ∨ ∃ nnn, i = .call nnn := by
  cases i with
  | ret => exact .inl rfl
  | call nnn => exact .inr ⟨nnn, rfl⟩
  | _ => cases h

theorem eq_of_writes_index {i : Instr} (h : writes i .index = true) :
    ∃ nnn x, i = .loadIndex nnn ∨ i = .addIndex x ∨ i = .glyphAddr x ∨ i = .storeRegs x ∨ i = .loadRegs x := by
  cases i with
  | loadIndex nnn => exact ⟨nnn, 0, .inl rfl⟩
  | addIndex x | glyphAddr x | storeRegs x | loadRegs x => exact ⟨0, x, by simp⟩
  | _ => cases h

theorem eq_of_writes_delay {i : Instr} (h : writes i .delay = true) : ∃ x, i = .setDelay x := by
  cases i with
  | setDelay x => exact ⟨x, rfl⟩
  | _ => cases h

theorem eq_of_writes_sound {i : Instr} (h : writes i .sound = true) : ∃ x, i = .setSound x := by
  cases i with
  | setSound x => exact ⟨x, rfl⟩
  | _ => cases h

/-- A part that changed is one the instruction writes. -/
theorem writes_of_ne {i : Instr} {p : Part} {α : Type} {a b : α} (h : writes i p = false → a = b) (hne : a ≠ b) :
    writes i p = true := Bool.of_not_eq_false fun hw => hne (h hw)

/-- Settles O44: a fault changes none of these parts, and without one only the writers of a part change it. -/
theorem onlyListedInstructionsWriteOtherState : Obligations.OnlyListedInstructionsWriteOtherState := by
  intro i s t h
  obtain ⟨-, hu⟩ | ⟨kind, info, -, rfl⟩ := exec_cases h
  · exact ⟨fun hne => eq_of_writes_memory (writes_of_ne hu.memory hne),
      fun hne => eq_of_writes_screen (writes_of_ne hu.screen hne),
      fun hne => eq_of_writes_callStack (hne.elim (writes_of_ne hu.stack) (writes_of_ne hu.sp)),
      fun hne => eq_of_writes_index (writes_of_ne hu.index hne),
      fun hne => eq_of_writes_delay (writes_of_ne hu.delay hne),
      fun hne => eq_of_writes_sound (writes_of_ne hu.sound hne),
      hu.cfg, hu.irWord, hu.irAddr, hu.exited, hu.inputs, hu.requests, hu.draws⟩
  · simp [State.raise]

/-! ### Call and return (R27) -/

/-- Settles O13: the slot a call writes is the one a return over the same stack reads. -/
theorem returnUndoesCall : Obligations.ReturnUndoesCall := by
  intro nnn s u hs
  refine ⟨_, execCall_ok nnn s hs, fun hstack hsp => ?_⟩
  simp only [State.setPc_stack, State.setPc_sp, State.setCallStack_stack, State.setCallStack_sp] at hstack hsp
  have h0 : u.sp.val ≠ 0 := by simp [hsp]
  refine ⟨_, execRet_ok u h0, ?_, ?_⟩
  · simp [hstack, hsp, Vector.get_eq_getElem]
  · simp [hsp]

end Sys2Proof.Machine
end

section
/-! PROOFS. What every step keeps: the state after RESET, the configuration and the exit flag, and the machine's invariant
(spec 10_state.md R35 to R39, 70_reset_and_hazards.md R250 to R254). -/

namespace Sys2Proof.Machine

open Claim

/-! ### RESET (R38, R250) -/

theorem opReset_ok {cfg : Compat} (h : cfg.fontStart.toNat ≤ 0x1B0) (s : State) :
    opReset cfg s = .next (s.afterReset cfg) := if_pos h

theorem opReset_refused {cfg : Compat} (h : 0x1B0 < cfg.fontStart.toNat) (s : State) :
    opReset cfg s = .refused (.fontStartOutOfRange cfg.fontStart) := if_neg (by omega)

/-- Everything RESET can answer with a next state. -/
theorem opReset_cases {cfg : Compat} {s t : State} (h : opReset cfg s = .next t) :
    cfg.fontStart.toNat ≤ 0x1B0 ∧ t = s.afterReset cfg := by
  by_cases hc : cfg.fontStart.toNat ≤ 0x1B0
  · rw [opReset_ok hc] at h
    exact ⟨hc, (Host.Outcome.next.inj h).symm⟩
  · rw [opReset_refused (by omega)] at h
    cases h

/-- Settles O48: RESET writes its table of values, and refuses a font that would not fit below 0x200. -/
theorem resetGivesTheTableOfValues : Obligations.ResetGivesTheTableOfValues := by
  intro cfg s
  constructor
  · intro h
    refine ⟨_, opReset_ok h s, ?_⟩
    simp [State.afterReset, State.resetWith, State.reg, Vector.get_eq_getElem, Memory.unlisted]
  · intro h t
    simp [opReset_refused h]

/-! ### The loads and TICK (R200, R251, R253) -/

/-- A load copied its bytes or raised a load fault. -/
def Loaded (bytes : List Byte) (s t : State) : Prop :=
  (∃ a m, storeBytes s.mem a bytes = .ok m ∧ t = s.setMem m) ∨ ∃ r, t = s.enterFault r

theorem loaded_raiseLoad (bytes : List Byte) (s : State) (kind : FaultKind) (info : Nat) :
    Loaded bytes s (s.raiseLoad kind info) := .inr ⟨_, State.raiseLoad_eq s kind info⟩

theorem loaded_copyIn (s : State) (a : Nat) (bytes : List Byte) : Loaded bytes s (copyIn s a bytes) := by
  unfold copyIn
  split
  · exact .inl ⟨a, _, ‹_›, rfl⟩
  · exact loaded_raiseLoad bytes s _ _

/-- An operation that goes to `u` once accepted, and answered a next state, was accepted and went to `u`. -/
theorem State.accepted_of_next {s t u : State} {op : Operation}
    (h : (if s.accepts op then .next u else s.notAccepted op) = .next t) : s.accepts op = true ∧ u = t := by
  split at h
  · exact ⟨‹_›, Host.Outcome.next.inj h⟩
  · exact absurd h (State.notAccepted_ne_next _ _ _)

/-- Everything LOAD_FONT can answer with a next state. -/
theorem opLoadFont_cases {bytes : List Byte} {s t : State} (h : opLoadFont bytes s = .next t) :
    s.status = .load ∧ Loaded bytes s t := by
  obtain ⟨ha, rfl⟩ := State.accepted_of_next h
  refine ⟨(State.accepts_loadFont s).1 ha, ?_⟩
  split
  · exact loaded_raiseLoad bytes s _ _
  · exact loaded_copyIn s _ bytes

/-- Everything LOAD_PROGRAM can answer with a next state. -/
theorem opLoadProgram_cases {bytes : List Byte} {s t : State} (h : opLoadProgram bytes s = .next t) :
    s.status = .load ∧ Loaded bytes s t := by
  obtain ⟨ha, rfl⟩ := State.accepted_of_next h
  refine ⟨(State.accepts_loadProgram s).1 ha, ?_⟩
  split
  · exact loaded_raiseLoad bytes s _ _
  · exact loaded_copyIn s _ bytes

/-- TICK writes the two timers only. -/
theorem opTick_cases {s t : State} (h : opTick s = .next t) : ∃ d b, t = (s.setDelay d).setSound b := by
  obtain ⟨-, rfl⟩ := State.accepted_of_next h
  exact ⟨_, _, rfl⟩

/-! ### The configuration and the exit flag (R35, R39) -/

/-- The configuration and the exit flag of `s` still stand in `t`. -/
def KeepsSettings (s t : State) : Prop := t.cfg = s.cfg ∧ t.exited = s.exited

theorem KeepsSettings.trans {s t u : State} (h : KeepsSettings s t) (h' : KeepsSettings t u) : KeepsSettings s u :=
  ⟨h'.1.trans h.1, h'.2.trans h.2⟩

theorem exec_keepsSettings {i : Instr} {s t : State} (h : exec i s = .next t) : KeepsSettings s t := by
  obtain ⟨-, hu⟩ | ⟨kind, info, -, rfl⟩ := exec_cases h
  · exact ⟨hu.cfg, hu.exited⟩
  · exact ⟨rfl, rfl⟩

theorem opFetch_keepsSettings {s t : State} (h : opFetch s = .next t) : KeepsSettings s t := by
  obtain ⟨-, -, ⟨w, -, -, rfl⟩ | ⟨-, rfl⟩⟩ := opFetch_cases h
  · exact ⟨rfl, rfl⟩
  · exact ⟨rfl, rfl⟩

theorem opExecute_keepsSettings {s t : State} {inp : Inputs} (h : opExecute inp s = .next t) : KeepsSettings s t := by
  obtain ⟨-, -, ⟨i, -, he⟩ | rfl⟩ := opExecute_cases h
  · have hk := exec_keepsSettings he
    exact hk
  · exact ⟨rfl, rfl⟩

theorem Loaded.keepsSettings {bytes : List Byte} {s t : State} (h : Loaded bytes s t) : KeepsSettings s t := by
  obtain ⟨a, m, -, rfl⟩ | ⟨r, rfl⟩ := h
  · exact ⟨rfl, rfl⟩
  · exact ⟨rfl, rfl⟩

theorem cycle_keepsSettings {s t : State} {inp : Inputs} (h : cycle inp s = .next t) : KeepsSettings s t := by
  obtain he | ⟨hf, -⟩ | ⟨u, hf, he⟩ := cycle_cases h
  · exact opExecute_keepsSettings he
  · exact opFetch_keepsSettings hf
  · exact (opFetch_keepsSettings hf).trans (opExecute_keepsSettings he)

/-- Every requested operation but RESET keeps the settings. -/
theorem perform_keepsSettings {r : Request} {s t : State} (hr : ∀ cfg, r ≠ .reset cfg) (h : perform r s = .next t) :
    KeepsSettings s t := by
  cases r with
  | reset cfg => exact absurd rfl (hr cfg)
  | loadFont bytes => exact (opLoadFont_cases h).2.keepsSettings
  | loadProgram bytes => exact (opLoadProgram_cases h).2.keepsSettings
  | fetch => exact opFetch_keepsSettings h
  | execute inp => exact opExecute_keepsSettings h
  | tick =>
    obtain ⟨d, b, rfl⟩ := opTick_cases h
    exact ⟨rfl, rfl⟩
  | readOutputs =>
    obtain rfl := Host.Outcome.next.inj h
    exact ⟨rfl, rfl⟩

/-- A step performs a requested RESET or keeps the settings. -/
theorem step_reset_or_keepsSettings {s t : State} (h : step s = .next t) :
    (∃ cfg rest, s.requests = .reset cfg :: rest ∧ t = (s.takeRequest rest).afterReset cfg) ∨ KeepsSettings s t := by
  cases hq : s.requests with
  | nil =>
    rw [step_idle hq] at h
    have hk := cycle_keepsSettings h
    exact .inr hk
  | cons r rest =>
    rw [step_request hq] at h
    by_cases hr : ∃ cfg, r = .reset cfg
    · obtain ⟨cfg, rfl⟩ := hr
      exact .inl ⟨cfg, rest, rfl, (opReset_cases h).2⟩
    · have hk := perform_keepsSettings (fun cfg e => hr ⟨cfg, e⟩) h
      exact .inr hk

/-- Settles O53: a step that is no RESET keeps the configuration and the exit flag, and RESET clears the flag. -/
theorem stepKeepsConfigurationUnlessReset : Obligations.StepKeepsConfigurationUnlessReset := by
  intro s t h
  obtain ⟨cfg, rest, hq, rfl⟩ | ⟨hcfg, hexit⟩ := step_reset_or_keepsSettings h
  · exact ⟨fun hno => absurd hq (hno cfg rest), fun _ => rfl⟩
  · exact ⟨fun _ => hcfg, fun h0 => hexit.trans h0⟩

/-! ### The invariant, operation by operation -/

/-- Settles O51: the values of the table of R38 meet every clause, the stack and the latch being empty. -/
theorem resetMeetsInvariant : Obligations.ResetMeetsInvariant := by
  intro cfg hcfg
  exact {
    memory := Memory.wf_nil
    config := hcfg
    notExited := rfl
    record := by simp [State.resetWith]
    latch := by simp [State.resetWith]
    pcBound := by simp [State.resetWith]
    returnAddresses := by simp [State.resetWith]
    loading := by simp [State.resetWith] }

namespace Invariant

variable {s t : State}

/-- The invariant reads nothing of the registers, I, the timers, the framebuffer and the host's side. -/
theorem of_unread (h : Invariant s) (v : Vector Byte 16) (index : Word) (dt st : Byte) (fb : Vector FbRow 32)
    (inputs : Inputs) (requests : List Request) (draws : Nat) :
    Invariant { s with v, index, dt, st, fb, inputs, requests, draws } :=
  ⟨h.memory, h.config, h.notExited, h.record, h.latch, h.pcBound, h.returnAddresses, h.loading⟩

theorem takeRequest (h : Invariant s) (rest : List Request) : Invariant (s.takeRequest rest) :=
  h.of_unread _ _ _ _ _ _ _ _

theorem countDraw (h : Invariant s) : Invariant s.countDraw := h.of_unread _ _ _ _ _ _ _ _

theorem setTimers (h : Invariant s) (d b : Byte) : Invariant ((s.setDelay d).setSound b) := h.of_unread _ _ _ _ _ _ _ _

theorem afterReset {cfg : Compat} (hcfg : cfg.fontStart.toNat ≤ 0x1B0) (s : State) : Invariant (s.afterReset cfg) :=
  (resetMeetsInvariant cfg hcfg).of_unread _ _ _ _ _ _ _ _

/-- Taking a fault writes the record with the status and drops the latch. -/
theorem enterFault (h : Invariant s) (r : FaultRecord) : Invariant (s.enterFault r) where
  memory := h.memory
  config := h.config
  notExited := h.notExited
  record := by simp
  latch := by simp
  pcBound := h.pcBound
  returnAddresses := h.returnAddresses
  loading := by simp

/-- A canonical memory may replace the memory while no word is latched. -/
theorem setMem (h : Invariant s) (hv : s.irValid = false) {m : Memory} (hm : m.wf) : Invariant (s.setMem m) where
  memory := hm
  config := h.config
  notExited := h.notExited
  record := h.record
  latch := by simp [hv]
  pcBound := h.pcBound
  returnAddresses := h.returnAddresses
  loading := h.loading

/-- Only RUN holds a latched word. -/
theorem irValid_of_load (h : Invariant s) (hs : s.status = .load) : s.irValid = false := by
  by_contra hv
  have hrun := (h.latch (Bool.of_not_eq_false hv)).1
  simp [hs] at hrun

/-- No record stands outside FAULTED. -/
theorem fault_eq_none (h : Invariant s) (hs : s.status ≠ .faulted) : s.fault = none := by
  simpa [hs] using h.record

/-- Entering RUN outside FAULTED, with no word latched. -/
theorem startRun (h : Invariant s) (hs : s.status ≠ .faulted) (hv : s.irValid = false) : Invariant s.startRun where
  memory := h.memory
  config := h.config
  notExited := h.notExited
  record := by simp [h.fault_eq_none hs]
  latch := by simp [hv]
  pcBound := h.pcBound
  returnAddresses := h.returnAddresses
  loading := by simp

/-- The two instruction bytes lie in the bank, so pc moves at most to its end. -/
theorem latchWord (h : Invariant s) (hs : s.status = .run) {w : Word} (hw : fetchWord s.mem s.pc.toNat = .ok w)
    (hp : s.pc.toNat + 1 < 4096) : Invariant (s.latch w) where
  memory := h.memory
  config := h.config
  notExited := h.notExited
  record := h.record
  latch := fun _ => ⟨hs, rfl, hw⟩
  pcBound := by
    simp only [State.latch_pc]
    bv_omega
  returnAddresses := h.returnAddresses
  loading := by simp [hs]

/-- EXECUTE consumes the latch before it acts. -/
theorem beginExecute (h : Invariant s) (inp : Inputs) : Invariant (s.beginExecute inp) where
  memory := h.memory
  config := h.config
  notExited := h.notExited
  record := h.record
  latch := by simp
  pcBound := h.pcBound
  returnAddresses := h.returnAddresses
  loading := h.loading

/-- With a word latched, pc is past two bytes of the bank: an address that a call can push. -/
theorem pc_of_latched (h : Invariant s) (hv : s.irValid = true) : 2 ≤ s.pc.toNat ∧ s.pc.toNat ≤ 0x1000 := by
  obtain ⟨-, hpc, hw⟩ := h.latch hv
  have hlt : s.irAddr.toNat + 1 < 4096 := by
    by_contra hge
    rw [fetchWord_error (by omega)] at hw
    cases hw
  rw [hpc]
  bv_omega

end Invariant

/-! ### Instructions -/

theorem storeBytes_wf {m m' : Memory} (hm : m.wf) {a : Nat} {bs : List Byte} (h : storeBytes m a bs = .ok m') :
    m'.wf := by
  obtain ⟨n, hn, hwf⟩ | he := storeBytes_cases hm a bs
  · rw [hn] at h
    exact Except.ok.inj h ▸ hwf
  · rw [he] at h
    cases h

/-- The storing instructions leave memory canonical, and the others leave it alone. -/
theorem exec_memory_wf {i : Instr} {s t : State} (hf : faultOf i s = none) (h : exec i s = .next t) (hm : s.mem.wf) :
    t.mem.wf := by
  cases i with
  | storeDecimal x =>
    have h0 : s.index.toNat + 3 ≤ 4096 := by simpa [faultOf] using hf
    obtain ⟨m, hs, he⟩ := execStoreDecimal_next x s h0
    obtain rfl := Host.Outcome.next.inj (he.symm.trans h)
    exact storeBytes_wf hm hs
  | storeRegs x =>
    have h0 : s.index.toNat + (x.val + 1) ≤ 4096 := by simpa [faultOf] using hf
    obtain ⟨m, hs, he⟩ := execStoreRegs_next x s h0
    obtain rfl := Host.Outcome.next.inj (he.symm.trans h)
    exact storeBytes_wf hm hs
  | _ => rw [(exec_unchangedOutside hf h).memory rfl]; exact hm

/-- Every held return address is one that a call can have pushed (R120). -/
def ReturnAddressesOk (s : State) : Prop :=
  ∀ k : Fin 32, k.val < s.sp.val → 2 ≤ (s.stack.get k).toNat ∧ (s.stack.get k).toNat ≤ 0x1000

/-- A call pushes pc, a return drops an entry, and the others leave the stack alone. -/
theorem exec_returnAddressesOk {i : Instr} {s t : State} (hf : faultOf i s = none) (h : exec i s = .next t)
    (hpc : 2 ≤ s.pc.toNat ∧ s.pc.toNat ≤ 0x1000) (hr : ReturnAddressesOk s) : ReturnAddressesOk t := by
  cases i with
  | call nnn =>
    have h0 : s.sp.val ≠ 32 := by simpa [faultOf] using hf
    obtain rfl := Host.Outcome.next.inj ((execCall_ok nnn s (by omega)).symm.trans h)
    intro k hk
    simp only [State.setPc_stack, State.setPc_sp, State.setCallStack_stack, State.setCallStack_sp] at hk ⊢
    by_cases he : s.sp.val = k.val
    · simpa [Vector.get_eq_getElem, he] using hpc
    · simpa [Vector.get_eq_getElem, Vector.getElem_set_ne, he] using hr k (by omega)
  | ret =>
    have h0 : s.sp.val ≠ 0 := by simpa [faultOf] using hf
    obtain rfl := Host.Outcome.next.inj ((execRet_ok s h0).symm.trans h)
    intro k hk
    simp only [State.setPc_stack, State.setPc_sp, State.setCallStack_stack, State.setCallStack_sp] at hk ⊢
    exact hr k (by omega)
  | _ =>
    have hu := exec_unchangedOutside hf h
    unfold ReturnAddressesOk
    rw [hu.stack rfl, hu.sp rfl]
    exact hr

/-- The table of R25 keeps pc in the reach of BNNN. -/
theorem pcAfter_le {i : Instr} {s : State} (hf : faultOf i s = none) (hpc : 2 ≤ s.pc.toNat ∧ s.pc.toNat ≤ 0x1000)
    (hr : ReturnAddressesOk s) : (pcAfter i s).toNat ≤ 0x10FE := by
  have hnext : (s.pc + 2).toNat ≤ 0x10FE := by bv_omega
  have hsame : s.pc.toNat ≤ 0x10FE := by omega
  cases i with
  | jump nnn | call nnn =>
    have hn : (zextAddr nnn).toNat ≤ 0xFFF := by
      rw [zextAddr_toNat]
      omega
    exact hn.trans (by decide)
  | ret =>
    have h0 : s.sp.val ≠ 0 := by simpa [faultOf] using hf
    have hlt : s.sp.val - 1 < 32 := by omega
    have hk := (hr ⟨s.sp.val - 1, hlt⟩ (Nat.sub_one_lt h0)).2.trans (show 0x1000 ≤ 0x10FE by decide)
    simpa [pcAfter, hlt, Vector.get_eq_getElem] using hk
  | jumpOffset x nnn =>
    simp only [pcAfter]
    bv_omega
  | skipEqImm x nn | skipNeImm x nn | skipEqReg x y | skipNeReg x y | skipKeyHeld x | skipKeyNotHeld x =>
    simp only [pcAfter]
    split
    · assumption
    · assumption
  | waitKey x =>
    simp only [pcAfter]
    split
    · exact hsame
    · bv_omega
  | _ => exact hsame

/-- An instruction keeps the invariant when pc is past the word it was fetched from. -/
theorem exec_invariant {i : Instr} {s t : State} (hi : Invariant s) (hs : s.status = .run) (hv : s.irValid = false)
    (hpc : 2 ≤ s.pc.toNat ∧ s.pc.toNat ≤ 0x1000) (h : exec i s = .next t) : Invariant t := by
  obtain ⟨hf, hu⟩ | ⟨kind, info, -, rfl⟩ := exec_cases h
  case inr => exact hi.enterFault _
  exact {
    memory := exec_memory_wf hf h hi.memory
    config := hu.cfg ▸ hi.config
    notExited := hu.exited.trans hi.notExited
    record := by rw [hu.status, hu.fault]; exact hi.record
    latch := by simp [hu.irValid, hv]
    pcBound := pcFollowsTheTable i s t hf h ▸ pcAfter_le hf hpc hi.returnAddresses
    returnAddresses := exec_returnAddressesOk hf h hpc hi.returnAddresses
    loading := by simp [hu.status, hs] }

/-! ### Operations and the step -/

theorem opFetch_invariant {s t : State} (hi : Invariant s) (h : opFetch s = .next t) : Invariant t := by
  obtain ⟨hs, hv, ⟨w, hw, hp, rfl⟩ | ⟨-, rfl⟩⟩ := opFetch_cases h
  · exact (hi.startRun hs hv).latchWord rfl hw hp
  · exact (hi.startRun hs hv).enterFault _

theorem opExecute_invariant {s t : State} {inp : Inputs} (hi : Invariant s) (h : opExecute inp s = .next t) :
    Invariant t := by
  obtain ⟨hs, hv, ⟨i, -, he⟩ | rfl⟩ := opExecute_cases h
  · exact exec_invariant (hi.beginExecute inp) hs rfl (hi.pc_of_latched hv) he
  · exact (hi.beginExecute inp).enterFault _

theorem Loaded.invariant {bytes : List Byte} {s t : State} (hi : Invariant s) (hs : s.status = .load)
    (h : Loaded bytes s t) : Invariant t := by
  obtain ⟨a, m, hm, rfl⟩ | ⟨r, rfl⟩ := h
  · exact hi.setMem (hi.irValid_of_load hs) (storeBytes_wf hi.memory hm)
  · exact hi.enterFault r

theorem cycle_invariant {s t : State} {inp : Inputs} (hi : Invariant s) (h : cycle inp s = .next t) : Invariant t := by
  obtain he | ⟨hf, -⟩ | ⟨u, hf, he⟩ := cycle_cases h
  · exact opExecute_invariant hi he
  · exact opFetch_invariant hi hf
  · exact opExecute_invariant (opFetch_invariant hi hf) he

theorem perform_invariant {r : Request} {s t : State} (hi : Invariant s) (h : perform r s = .next t) : Invariant t := by
  cases r with
  | reset cfg =>
    obtain ⟨hcfg, rfl⟩ := opReset_cases h
    exact .afterReset hcfg s
  | loadFont bytes =>
    obtain ⟨hs, hl⟩ := opLoadFont_cases h
    exact hl.invariant hi hs
  | loadProgram bytes =>
    obtain ⟨hs, hl⟩ := opLoadProgram_cases h
    exact hl.invariant hi hs
  | fetch => exact opFetch_invariant hi h
  | execute inp => exact opExecute_invariant hi h
  | tick =>
    obtain ⟨d, b, rfl⟩ := opTick_cases h
    exact hi.setTimers d b
  | readOutputs => exact Host.Outcome.next.inj h ▸ hi

/-- Settles O52: a step is one requested operation or one cycle, and each of them keeps the invariant. -/
theorem stepKeepsInvariant : Obligations.StepKeepsInvariant := by
  intro s t hi h
  cases hq : s.requests with
  | nil =>
    rw [step_idle hq] at h
    exact cycle_invariant hi.countDraw h
  | cons r rest =>
    rw [step_request hq] at h
    exact perform_invariant (hi.takeRequest rest) h

end Sys2Proof.Machine
end

section
/-! PROOFS. The decoder and the encoder are inverse to each other, and the decoder's dispatch is the match/mask table
(spec 30_encoding.md R83, R85-R91). -/

namespace Sys2Proof

/-! ### Decoding an encoded instruction -/

/-- The fields of BNNN overlap: it is the one form that needs well-formedness (log entry 10). -/
theorem wf_jumpOffset_iff {x : Reg} {nnn : Addr12} : (Instr.jumpOffset x nnn).wf = true ↔ x = topNibble nnn := beq_iff_eq

theorem wf_jumpOffset_fields (w : Word) : (Instr.jumpOffset (fieldX w) (fieldNNN w)).wf = true :=
  wf_jumpOffset_iff.mpr (topNibble_fieldNNN w).symm

/-- Settles O2: the first nibble of each format's word selects the family, the family's own field selects the
instruction, and the other fields give back the operands. -/
theorem decodeInvertsEncode : Obligations.DecodeInvertsEncode := by
  intro i hwf
  cases i with
  | clearScreen | ret => rfl
  | jump nnn | call nnn | loadIndex nnn => simp [encode, decode, fieldI_formNNN, fieldNNN_formNNN]
  | jumpOffset x nnn =>
    obtain rfl := wf_jumpOffset_iff.mp hwf
    simp [encode, decode, fieldI_formNNN, fieldNNN_formNNN, fieldX_formNNN]
  | skipEqImm x nn | skipNeImm x nn | loadImm x nn | addImm x nn | random x nn =>
    simp [encode, decode, fieldI_formXNN, fieldX_formXNN, fieldNN_formXNN]
  | skipEqReg x y =>
    simp [encode, decode, decode5, fieldI_formXYN, fieldX_formXYN, fieldY_formXYN, fieldN_formXYN]
  | copyReg x y | orReg x y | andReg x y | xorReg x y | addReg x y | subReg x y | shiftRight x y | revSubReg x y
  | shiftLeft x y =>
    simp [encode, decode, decode8, fieldI_formXYN, fieldX_formXYN, fieldY_formXYN, fieldN_formXYN]
  | skipNeReg x y =>
    simp [encode, decode, decode9, fieldI_formXYN, fieldX_formXYN, fieldY_formXYN, fieldN_formXYN]
  | draw x y n =>
    simp [encode, decode, fieldI_formXYN, fieldX_formXYN, fieldY_formXYN, fieldN_formXYN]
  | skipKeyHeld x | skipKeyNotHeld x =>
    simp [encode, decode, decodeE, fieldI_formXNN, fieldX_formXNN, fieldNN_formXNN]
  | readDelay x | waitKey x | setDelay x | setSound x | addIndex x | glyphAddr x | storeDecimal x | storeRegs x
  | loadRegs x =>
    simp [encode, decode, decodeF, fieldI_formXNN, fieldX_formXNN, fieldNN_formXNN]

/-! ### Encoding a decoded instruction -/

/-- The instruction is well formed, and the word is its word. -/
def IsWordOf (w : Word) (i : Instr) : Prop := i.wf = true ∧ encode i = w

section
variable {w : Word} {i : Instr} {k n : BitVec 4} {nn : Byte} {nnn : Addr12}

theorem formNNN_eq_of_fields (hI : fieldI w = k) (hNNN : fieldNNN w = nnn) : formNNN k nnn = w :=
  hI ▸ hNNN ▸ formNNN_fields w

theorem formXNN_eq_of_fields (hI : fieldI w = k) (hNN : fieldNN w = nn) : formXNN k (fieldX w) nn = w :=
  hI ▸ hNN ▸ formXNN_fields w

theorem formXYN_eq_of_fields (hI : fieldI w = k) (hN : fieldN w = n) : formXYN k (fieldX w) (fieldY w) n = w :=
  hI ▸ hN ▸ formXYN_fields w

/-! In each family the last arm rejects, and every other arm's word is put together again from the fields that the
arm has read. -/

theorem isWordOf_of_decode0 (hI : fieldI w = 0x0) (h : decode0 w = .ok i) : IsWordOf w i := by
  unfold decode0 at h
  split at h
  case h_3 => cases h
  all_goals
    cases h
    exact ⟨rfl, formNNN_eq_of_fields hI ‹_›⟩

theorem isWordOf_of_decode5 (hI : fieldI w = 0x5) (h : decode5 w = .ok i) : IsWordOf w i := by
  unfold decode5 at h
  split at h
  case h_2 => cases h
  cases h
  exact ⟨rfl, formXYN_eq_of_fields hI ‹_›⟩

theorem isWordOf_of_decode8 (hI : fieldI w = 0x8) (h : decode8 w = .ok i) : IsWordOf w i := by
  unfold decode8 at h
  split at h
  case h_10 => cases h
  all_goals
    cases h
    exact ⟨rfl, formXYN_eq_of_fields hI ‹_›⟩

theorem isWordOf_of_decode9 (hI : fieldI w = 0x9) (h : decode9 w = .ok i) : IsWordOf w i := by
  unfold decode9 at h
  split at h
  case h_2 => cases h
  cases h
  exact ⟨rfl, formXYN_eq_of_fields hI ‹_›⟩

theorem isWordOf_of_decodeE (hI : fieldI w = 0xE) (h : decodeE w = .ok i) : IsWordOf w i := by
  unfold decodeE at h
  split at h
  case h_3 => cases h
  all_goals
    cases h
    exact ⟨rfl, formXNN_eq_of_fields hI ‹_›⟩

theorem isWordOf_of_decodeF (hI : fieldI w = 0xF) (h : decodeF w = .ok i) : IsWordOf w i := by
  unfold decodeF at h
  split at h
  case h_10 => cases h
  all_goals
    cases h
    exact ⟨rfl, formXNN_eq_of_fields hI ‹_›⟩

end

/-- Settles O3: every arm of the dispatch (in the order of R85) fixes the bits that it does not hand on as
operands. -/
theorem encodeInvertsDecode : Obligations.EncodeInvertsDecode := by
  intro w i h
  unfold decode at h
  split at h
  next hI => exact isWordOf_of_decode0 hI h
  next hI => cases h; exact ⟨rfl, formNNN_eq_of_fields hI rfl⟩
  next hI => cases h; exact ⟨rfl, formNNN_eq_of_fields hI rfl⟩
  next hI => cases h; exact ⟨rfl, formXNN_eq_of_fields hI rfl⟩
  next hI => cases h; exact ⟨rfl, formXNN_eq_of_fields hI rfl⟩
  next hI => exact isWordOf_of_decode5 hI h
  next hI => cases h; exact ⟨rfl, formXNN_eq_of_fields hI rfl⟩
  next hI => cases h; exact ⟨rfl, formXNN_eq_of_fields hI rfl⟩
  next hI => exact isWordOf_of_decode8 hI h
  next hI => exact isWordOf_of_decode9 hI h
  next hI => cases h; exact ⟨rfl, formNNN_eq_of_fields hI rfl⟩
  next hI => cases h; exact ⟨wf_jumpOffset_fields w, formNNN_eq_of_fields hI rfl⟩
  next hI => cases h; exact ⟨rfl, formXNN_eq_of_fields hI rfl⟩
  next hI => cases h; exact ⟨rfl, formXYN_eq_of_fields hI rfl⟩
  next hI => exact isWordOf_of_decodeE hI h
  next =>
    have hI : fieldI w = 0xF := by
      simp only [imp_false] at *
      bv_omega
    exact isWordOf_of_decodeF hI h

/-! ### The match/mask table -/

/-- A field that a row's mask covers holds what it holds in the row's value. -/
theorem field_of_matches {v m w : Word} {start len : Nat} {k : BitVec len} (h : OpcodeRow.Matches ⟨v, m⟩ w)
    (hm : m.extractLsb' start len = BitVec.allOnes len) (hv : v.extractLsb' start len = k) :
    w.extractLsb' start len = k := by
  have hwv : w &&& m = v := h
  rw [← hv, ← hwv, BitVec.extractLsb'_and, hm, BitVec.and_allOnes]

/-- The instruction of the same row with the fields of `w` as its operands. -/
def Instr.withFields (w : Word) : Instr → Instr
  | .clearScreen => .clearScreen
  | .ret => .ret
  | .jump _ => .jump (fieldNNN w)
  | .call _ => .call (fieldNNN w)
  | .skipEqImm _ _ => .skipEqImm (fieldX w) (fieldNN w)
  | .skipNeImm _ _ => .skipNeImm (fieldX w) (fieldNN w)
  | .skipEqReg _ _ => .skipEqReg (fieldX w) (fieldY w)
  | .loadImm _ _ => .loadImm (fieldX w) (fieldNN w)
  | .addImm _ _ => .addImm (fieldX w) (fieldNN w)
  | .copyReg _ _ => .copyReg (fieldX w) (fieldY w)
  | .orReg _ _ => .orReg (fieldX w) (fieldY w)
  | .andReg _ _ => .andReg (fieldX w) (fieldY w)
  | .xorReg _ _ => .xorReg (fieldX w) (fieldY w)
  | .addReg _ _ => .addReg (fieldX w) (fieldY w)
  | .subReg _ _ => .subReg (fieldX w) (fieldY w)
  | .shiftRight _ _ => .shiftRight (fieldX w) (fieldY w)
  | .revSubReg _ _ => .revSubReg (fieldX w) (fieldY w)
  | .shiftLeft _ _ => .shiftLeft (fieldX w) (fieldY w)
  | .skipNeReg _ _ => .skipNeReg (fieldX w) (fieldY w)
  | .loadIndex _ => .loadIndex (fieldNNN w)
  | .jumpOffset _ _ => .jumpOffset (fieldX w) (fieldNNN w)
  | .random _ _ => .random (fieldX w) (fieldNN w)
  | .draw _ _ _ => .draw (fieldX w) (fieldY w) (fieldN w).toFin
  | .skipKeyHeld _ => .skipKeyHeld (fieldX w)
  | .skipKeyNotHeld _ => .skipKeyNotHeld (fieldX w)
  | .readDelay _ => .readDelay (fieldX w)
  | .waitKey _ => .waitKey (fieldX w)
  | .setDelay _ => .setDelay (fieldX w)
  | .setSound _ => .setSound (fieldX w)
  | .addIndex _ => .addIndex (fieldX w)
  | .glyphAddr _ => .glyphAddr (fieldX w)
  | .storeDecimal _ => .storeDecimal (fieldX w)
  | .storeRegs _ => .storeRegs (fieldX w)
  | .loadRegs _ => .loadRegs (fieldX w)

theorem opcodeRow_withFields (w : Word) (i : Instr) : opcodeRow (i.withFields w) = opcodeRow i := by
  cases i <;> rfl

theorem wf_withFields (w : Word) (i : Instr) : (i.withFields w).wf = true := by
  cases i with
  | jumpOffset x nnn => exact wf_jumpOffset_fields w
  | _ => rfl

/-- A word of an instruction's row is the word of the instruction with the word's own fields: mask and operands leave no
bit out. -/
theorem encode_withFields {w : Word} {i : Instr} (h : (opcodeRow i).Matches w) : encode (i.withFields w) = w := by
  cases i with
  | clearScreen | ret => exact h.symm.trans BitVec.and_allOnes
  | jump | call | loadIndex | jumpOffset => exact formNNN_eq_of_fields (field_of_matches h rfl rfl) rfl
  | skipEqImm | skipNeImm | loadImm | addImm | random => exact formXNN_eq_of_fields (field_of_matches h rfl rfl) rfl
  | skipEqReg | copyReg | orReg | andReg | xorReg | addReg | subReg | shiftRight | revSubReg | shiftLeft | skipNeReg =>
    exact formXYN_eq_of_fields (field_of_matches h rfl rfl) (field_of_matches h rfl rfl)
  | draw => exact formXYN_eq_of_fields (field_of_matches h rfl rfl) rfl
  | skipKeyHeld | skipKeyNotHeld | readDelay | waitKey | setDelay | setSound | addIndex | glyphAddr | storeDecimal
  | storeRegs | loadRegs => exact formXNN_eq_of_fields (field_of_matches h rfl rfl) (field_of_matches h rfl rfl)

open Laws in
theorem encode_matches_opcodeRow : ∀ i : Instr, (opcodeRow i).Matches (encode i)
  | .clearScreen => RowOfEncoding.clearScreen
  | .ret => RowOfEncoding.ret
  | .jump _ => RowOfEncoding.jump _
  | .call _ => RowOfEncoding.call _
  | .skipEqImm _ _ => RowOfEncoding.skipEqImm _ _
  | .skipNeImm _ _ => RowOfEncoding.skipNeImm _ _
  | .skipEqReg _ _ => RowOfEncoding.skipEqReg _ _
  | .loadImm _ _ => RowOfEncoding.loadImm _ _
  | .addImm _ _ => RowOfEncoding.addImm _ _
  | .copyReg _ _ => RowOfEncoding.copyReg _ _
  | .orReg _ _ => RowOfEncoding.orReg _ _
  | .andReg _ _ => RowOfEncoding.andReg _ _
  | .xorReg _ _ => RowOfEncoding.xorReg _ _
  | .addReg _ _ => RowOfEncoding.addReg _ _
  | .subReg _ _ => RowOfEncoding.subReg _ _
  | .shiftRight _ _ => RowOfEncoding.shiftRight _ _
  | .revSubReg _ _ => RowOfEncoding.revSubReg _ _
  | .shiftLeft _ _ => RowOfEncoding.shiftLeft _ _
  | .skipNeReg _ _ => RowOfEncoding.skipNeReg _ _
  | .loadIndex _ => RowOfEncoding.loadIndex _
  | .jumpOffset _ _ => RowOfEncoding.jumpOffset _ _
  | .random _ _ => RowOfEncoding.random _ _
  | .draw _ _ _ => RowOfEncoding.draw _ _ _
  | .skipKeyHeld _ => RowOfEncoding.skipKeyHeld _
  | .skipKeyNotHeld _ => RowOfEncoding.skipKeyNotHeld _
  | .readDelay _ => RowOfEncoding.readDelay _
  | .waitKey _ => RowOfEncoding.waitKey _
  | .setDelay _ => RowOfEncoding.setDelay _
  | .setSound _ => RowOfEncoding.setSound _
  | .addIndex _ => RowOfEncoding.addIndex _
  | .glyphAddr _ => RowOfEncoding.glyphAddr _
  | .storeDecimal _ => RowOfEncoding.storeDecimal _
  | .storeRegs _ => RowOfEncoding.storeRegs _
  | .loadRegs _ => RowOfEncoding.loadRegs _

theorem opcodeRow_mem_opcodeRows (i : Instr) : opcodeRow i ∈ opcodeRows := by
  cases i <;> simp [opcodeRows, opcodeRow]

/-- A word lies in a row of the table exactly when it decodes to an instruction of that row. -/
theorem matches_iff_decode {row : OpcodeRow} (hrow : row ∈ opcodeRows) (w : Word) :
    row.Matches w ↔ ∃ i, decode w = .ok i ∧ opcodeRow i = row := by
  constructor
  · intro h
    obtain ⟨i, -, rfl⟩ := List.mem_map.mp hrow
    have hd := decodeInvertsEncode (i.withFields w) (wf_withFields w i)
    rw [encode_withFields h] at hd
    exact ⟨i.withFields w, hd, opcodeRow_withFields w i⟩
  · rintro ⟨i, hd, rfl⟩
    obtain ⟨-, rfl⟩ := encodeInvertsDecode w i hd
    exact encode_matches_opcodeRow i

/-- Settles O4: each row is the row of an instruction, and a word of two rows decodes to one instruction of both. -/
theorem decodeAgreesWithMatchMaskTable : Obligations.DecodeAgreesWithMatchMaskTable := by
  intro w
  refine ⟨fun row hrow => matches_iff_decode hrow w, ?_, fun i _ => opcodeRow_mem_opcodeRows i⟩
  intro row hrow row' hrow' h h'
  obtain ⟨i, hd, rfl⟩ := (matches_iff_decode hrow w).mp h
  obtain ⟨i', hd', rfl⟩ := (matches_iff_decode hrow' w).mp h'
  obtain rfl := Except.ok.inj (hd.symm.trans hd')
  rfl

/-- Settles O1 by evaluation: the words are fixed. -/
theorem wordsOfTheSpecDecode : Obligations.WordsOfTheSpecDecode := by
  unfold Obligations.WordsOfTheSpecDecode
  decide

end Sys2Proof
end

section
/-! PROOFS. FETCH, EXECUTE and the step (spec 40_fetch_decode.md R100-R111): which word a step runs, that every instruction
completes, which of them read the inputs of their EXECUTE, and when an operation is accepted. -/

namespace Sys2Proof.Machine

open Claim

/-! ### FETCH and the step (R101, R102, R104, R110) -/

/-- Settles O5: FETCH latches the word when both bytes are in the bank, and its fault overwrites the RUN it has set. -/
theorem fetchLatchesWordOrFaults : Obligations.FetchLatchesWordOrFaults := by
  intro s hs hv
  exact ⟨fun hp => opFetch_ok hs hv hp, fun hp => opFetch_error hs hv hp⟩

/-- Settles O6: with nothing pending a step is a cycle, which fetches the word at pc and executes it. -/
theorem stepRunsDecodedInstruction : Obligations.StepRunsDecodedInstruction := by
  intro s i hq hs hv hp hd
  calc step s = cycle (Config.freeInputs s.draws) s.countDraw := step_idle hq
    _ = opExecute (Config.freeInputs s.draws) (s.countDraw.startRun.latch (wordAtPc s)) := cycle_fetched _ hs hv hp
    _ = exec i ((s.countDraw.startRun.latch (wordAtPc s)).beginExecute (Config.freeInputs s.draws)) :=
      opExecute_ok _ rfl rfl hd

/-- Settles O7: the first step latches the word at pc, and the second executes it. -/
theorem requestedFetchThenExecuteRunsInstruction : Obligations.RequestedFetchThenExecuteRunsInstruction := by
  intro s i inp rest hq hs hv hp hd
  have hfetch : step s = .next ((s.takeRequest (.execute inp :: rest)).startRun.latch (wordAtPc s)) :=
    (step_request hq).trans (opFetch_ok hs hv hp)
  refine ⟨_, hfetch, ?_⟩
  rw [step_request (r := .execute inp) (rest := rest) rfl]
  exact opExecute_ok inp rfl rfl hd

/-! ### The harness's word -/

/-- Placing a word inside the bank writes it at pc, drops the latch and the requests, and changes no other byte. -/
theorem placeWord_ok {s : State} (hm : s.mem.wf) (hp : s.pc.toNat + 1 < 4096) (w : Word) :
    ∃ m, placeWord s w = { s with mem := m, irValid := false, requests := [] } ∧
      wordAtPc { s with mem := m } = w ∧ memoryOutside s { s with mem := m } s.pc.toNat 2 := by
  obtain ⟨m, hst, -, hb⟩ := storeBytes_ok hm (a := s.pc.toNat) (bs := bytesOfWord w) (.inr hp)
  refine ⟨m, by rw [placeWord, hst], ?_, fun c hc => (hb c).trans (dif_neg ?_)⟩
  · have hhi : m.byteAt s.pc.toNat = w.extractLsb' 8 8 := by simp [hb, bytesOfWord]
    have hlo : m.byteAt (s.pc.toNat + 1) = w.extractLsb' 0 8 := by simp [hb, bytesOfWord]
    rw [wordAtPc, hhi, hlo, wordOfBytes_bytes]
  · simp only [bytesOfWord, List.length_cons, List.length_nil]
    omega

/-- A table word of 16 bits is placed as that word. -/
theorem State.withFetchWord_eq (s : State) (w : Nat) : s.withFetchWord 16 w = placeWord s (BitVec.ofNat 16 w) := by
  rw [State.withFetchWord, ← BitVec.toNat_ofNat, BitVec.ofNat_toNat, BitVec.setWidth_eq]

/-- Settles O8: the placed word stands at pc with nothing pending and nothing latched, so the next step is its cycle. -/
theorem placedWordRunsNext : Obligations.PlacedWordRunsNext := by
  intro s w i hm hs hp hd
  obtain ⟨m, he, hw, hout⟩ := placeWord_ok hm hp (BitVec.ofNat 16 w)
  rw [State.withFetchWord_eq, he]
  refine ⟨?_, hout, rfl⟩
  have hdec : decode (wordAtPc { s with mem := m }) = .ok i := by rw [hw]; exact (decodeTableWord_eq w i).1 hd
  rw [← hw]
  exact stepRunsDecodedInstruction _ i rfl hs rfl hp hdec

/-- Settles O9: a word that decodes lies in the row of its instruction, so this one is rejected. -/
theorem illegalWordRaisesDecodeError : Obligations.IllegalWordRaisesDecodeError := by
  intro s inp hs hv hno
  cases hd : decode s.irWord with
  | ok i =>
    have hmem := opcodeRow_mem_opcodeRows i
    exact absurd ((matches_iff_decode hmem s.irWord).2 ⟨i, hd, rfl⟩) (hno _ hmem)
  | error e => exact opExecute_illegal inp hs hv hd

/-! ### Every instruction completes (R109, R220) -/

/-- Every meaning answers a next state on every path. -/
theorem exec_completes (i : Instr) (s : State) : ∃ t, exec i s = .next t := by
  cases i <;> exact ⟨_, rfl⟩

/-- Settles O41: an instruction raises the fault that the table gives it, or changes only its parts. -/
theorem everyInstructionCompletesWithItsOnlyFault : Obligations.EveryInstructionCompletesWithItsOnlyFault := by
  intro i s
  obtain ⟨t, h⟩ := exec_completes i s
  refine ⟨t, h, ?_⟩
  obtain ⟨hf, hu⟩ | ⟨kind, info, hf, rfl⟩ := exec_cases h
  · exact ⟨by simp [hf], fun _ => ⟨hu.fault, hu.status, hu.irValid⟩⟩
  · refine ⟨fun kind' info' hf' => ?_, by simp [hf]⟩
    obtain ⟨⟩ := hf.symm.trans hf'
    rfl

/-! ### The inputs of an EXECUTE (R111) -/

/-- The state with other inputs sampled. -/
def State.withInputs (s : State) (inp : Inputs) : State := { s with inputs := inp }

/-- A checked operation whose value does not depend on the inputs goes on, or raises, alike. -/
theorem State.orRaise_withInputs {α : Type} (s : State) (inp : Inputs) (kind : FaultKind) (r : Except Nat α)
    {k k' : α → State} (hk : ∀ a, k' a = (k a).withInputs inp) :
    (s.withInputs inp).orRaise kind r k' = (s.orRaise kind r k).withInputs inp := by
  cases r with
  | ok a => exact hk a
  | error info => rfl

theorem State.skipIf_withInputs (s : State) (inp : Inputs) (c : Prop) [Decidable c] :
    (if c then (s.withInputs inp).skip else s.withInputs inp) = (if c then s.skip else s).withInputs inp := by
  split
  · rfl
  · rfl

theorem execRet_withInputs (s : State) (inp : Inputs) :
    ∃ t, execRet s = .next t ∧ execRet (s.withInputs inp) = .next (t.withInputs inp) := by
  by_cases h0 : s.sp.val = 0
  · exact ⟨_, execRet_empty s h0, execRet_empty (s.withInputs inp) h0⟩
  · exact ⟨_, execRet_ok s h0, execRet_ok (s.withInputs inp) h0⟩

theorem execCall_withInputs (nnn : Addr12) (s : State) (inp : Inputs) :
    ∃ t, execCall nnn s = .next t ∧ execCall nnn (s.withInputs inp) = .next (t.withInputs inp) := by
  by_cases h0 : s.sp.val < 32
  · exact ⟨_, execCall_ok nnn s h0, execCall_ok nnn (s.withInputs inp) h0⟩
  · have hfull : s.sp.val = 32 := by omega
    exact ⟨_, execCall_full nnn s hfull, execCall_full nnn (s.withInputs inp) hfull⟩

theorem execAddIndex_withInputs (x : Reg) (s : State) (inp : Inputs) :
    ∃ t, execAddIndex x s = .next t ∧ execAddIndex x (s.withInputs inp) = .next (t.withInputs inp) := by
  cases hc : s.cfg.indexAddCarry with
  | true => exact ⟨_, execAddIndex_carry x s hc, execAddIndex_carry x (s.withInputs inp) hc⟩
  | false => exact ⟨_, execAddIndex_plain x s hc, execAddIndex_plain x (s.withInputs inp) hc⟩

/-- An instruction that reads no inputs commutes with a change of them. -/
theorem exec_withInputs {i : Instr} (hi : readsInputs i = false) (s : State) (inp : Inputs) :
    ∃ t, exec i s = .next t ∧ exec i (s.withInputs inp) = .next (t.withInputs inp) := by
  cases i with
  | random x nn | skipKeyHeld x | skipKeyNotHeld x | waitKey x => cases hi
  | ret => exact execRet_withInputs s inp
  | call nnn => exact execCall_withInputs nnn s inp
  | addIndex x => exact execAddIndex_withInputs x s inp
  | skipEqImm x nn | skipNeImm x nn | skipEqReg x y | skipNeReg x y =>
    exact ⟨_, rfl, congrArg Host.Outcome.next (s.skipIf_withInputs inp _)⟩
  | draw x y n | storeDecimal x | storeRegs x | loadRegs x =>
    exact ⟨_, rfl, congrArg Host.Outcome.next (s.orRaise_withInputs inp _ _ fun _ => rfl)⟩
  | _ => exact ⟨_, rfl, rfl⟩

/-- Settles O45: the next state with the new inputs is the old one with its inputs replaced. -/
theorem onlyListedInstructionsReadInputs : Obligations.OnlyListedInstructionsReadInputs := by
  intro i s t inp hi h
  obtain ⟨u, hu, hinp⟩ := exec_withInputs hi s inp
  obtain rfl := Host.Outcome.next.inj (hu.symm.trans h)
  exact hinp

/-! ### Accepted operations (R100, R250) -/

/-- An operation that goes to `u` once accepted has a next state exactly when it is accepted. -/
theorem State.exists_next_iff_accepts (s u : State) (op : Operation) :
    (∃ t, (if s.accepts op then .next u else s.notAccepted op) = .next t) ↔ s.accepts op = true :=
  ⟨fun ⟨_, h⟩ => (State.accepted_of_next h).1, fun h => ⟨u, if_pos h⟩⟩

theorem opReset_next_iff (cfg : Compat) (s : State) : (∃ t, opReset cfg s = .next t) ↔ cfg.fontStart.toNat ≤ 0x1B0 :=
  ⟨fun ⟨_, h⟩ => (opReset_cases h).1, fun h => ⟨_, opReset_ok h s⟩⟩

/-- An accepted EXECUTE has a next state, since every instruction completes and an illegal word raises. -/
theorem opExecute_next_iff (inp : Inputs) (s : State) :
    (∃ t, opExecute inp s = .next t) ↔ s.status = .run ∧ s.irValid = true := by
  constructor
  · rintro ⟨t, h⟩
    obtain ⟨hs, hv, -⟩ := opExecute_cases h
    exact ⟨hs, hv⟩
  · rintro ⟨hs, hv⟩
    cases hd : decode s.irWord with
    | ok i =>
      rw [opExecute_ok inp hs hv hd]
      exact exec_completes i _
    | error e => exact ⟨_, opExecute_illegal inp hs hv hd⟩

/-- Settles O46: the operations answer next states exactly when their guards hold, and an accepted one always answers. -/
theorem operationsRunExactlyWhenAccepted : Obligations.OperationsRunExactlyWhenAccepted := by
  intro r s
  cases r with
  | reset cfg => exact opReset_next_iff cfg s
  | loadFont bytes => exact (s.exists_next_iff_accepts _ .loadFont).trans s.accepts_loadFont
  | loadProgram bytes => exact (s.exists_next_iff_accepts _ .loadProgram).trans s.accepts_loadProgram
  | fetch => exact (s.exists_next_iff_accepts _ .fetch).trans s.accepts_fetch
  | execute inp => exact opExecute_next_iff inp s
  | tick => exact (s.exists_next_iff_accepts _ .tick).trans s.accepts_tick
  | readOutputs => exact ⟨fun _ => trivial, fun _ => ⟨s, rfl⟩⟩

end Sys2Proof.Machine
end

section
/-! PROOFS. Control flow and the call stack, one instruction each: the encoding, the effect with its frame, and the fault
(spec 41_flow_stack.md R120-R127). -/

namespace Sys2Proof

/-! ### Words that are no instruction (R90) -/

theorem decode_family5 {w : Word} (hI : fieldI w = 0x5) (hN : fieldN w ≠ 0x0) : decode w = .error .family5 := by
  have hfamily : decode w = decode5 w := by simp [decode, hI]
  rw [hfamily, decode5]
  split
  · exact absurd ‹_› hN
  · rfl

theorem decode_family9 {w : Word} (hI : fieldI w = 0x9) (hN : fieldN w ≠ 0x0) : decode w = .error .family9 := by
  have hfamily : decode w = decode9 w := by simp [decode, hI]
  rw [hfamily, decode9]
  split
  · exact absurd ‹_› hN
  · rfl

/-! ### BNNN's overlapping fields (R127) -/

theorem topNibble_val (nnn : Addr12) : (topNibble nnn).val = nnn.toNat / 256 := by
  have hlt : nnn.toNat / 256 < 16 := by omega
  simpa [topNibble, Nat.shiftRight_eq_div_pow] using hlt

end Sys2Proof

namespace Sys2Proof.Machine

open Claim

/-! ### Jump, call and return (R120-R122) -/

/-- Settles O11: the jump writes the zero-extended address into pc. -/
theorem jumpSetsPc : Obligations.JumpSetsPc := by
  intro nnn s
  exact ⟨decodeInvertsEncode (.jump nnn) rfl, _, rfl, zextAddr_toNat nnn, rfl⟩

/-- Settles O10: with an entry the return reads the topmost one, and with none its pop fails at depth 0. -/
theorem returnPopsStackIntoPc : Obligations.ReturnPopsStackIntoPc := by
  refine ⟨decodeInvertsEncode .ret rfl, fun s => ⟨fun k hk => ?_, fun h0 => execRet_empty s h0⟩⟩
  have hsp : s.sp.val - 1 = k.val := by omega
  refine ⟨_, execRet_ok s (by omega), ?_, hsp, rfl⟩
  exact congrArg s.stack.get (Fin.ext hsp)

/-- Settles O12: below 32 entries the call writes the slot at the old depth and no other, and at 32 its push fails. -/
theorem callPushesPcAndJumps : Obligations.CallPushesPcAndJumps := by
  intro nnn s
  refine ⟨decodeInvertsEncode (.call nnn) rfl, fun k hk => ?_, fun hfull => execCall_full nnn s hfull⟩
  have hlt : s.sp.val < 32 := hk ▸ k.isLt
  refine ⟨_, execCall_ok nnn s hlt, zextAddr_toNat nnn, congrArg (· + 1) hk, ?_, fun j hj => ?_, rfl⟩
  · simp [Vector.get_eq_getElem, hk]
  · have hne : s.sp.val ≠ j.val := fun h => hj (Fin.ext (h.symm.trans hk))
    simp [Vector.get_eq_getElem, hne]

/-! ### The conditional skips (R123-R126) -/

/-- A conditional skip, told by its condition `c` and the opposite condition `d`. -/
theorem State.skipIf_next (s : State) {c d : Prop} [Decidable c] (hd : d ↔ ¬c) :
    ∃ t, Host.Outcome.next (φ := Fault) (ρ := Refusal) (if c then s.skip else s) = .next t ∧
      (c → t.pc = s.pc + 2) ∧ (d → t.pc = s.pc) ∧ t = { s with pc := t.pc } := by
  by_cases hc : c
  · exact ⟨s.skip, by rw [if_pos hc], fun _ => rfl, fun h => absurd hc (hd.mp h), rfl⟩
  · exact ⟨s, by rw [if_neg hc], fun h => absurd h hc, fun _ => rfl, rfl⟩

/-- Settles O14: both instructions are conditional skips, on opposite conditions. -/
theorem skipComparesRegisterWithImmediate : Obligations.SkipComparesRegisterWithImmediate := by
  intro x nn s
  exact ⟨decodeInvertsEncode (.skipEqImm x nn) rfl, decodeInvertsEncode (.skipNeImm x nn) rfl,
    s.skipIf_next Iff.rfl, s.skipIf_next not_not.symm⟩

/-- Settles O15: both instructions are conditional skips, on opposite conditions, and their families know only the low
nibble 0. -/
theorem skipComparesTwoRegisters : Obligations.SkipComparesTwoRegisters := by
  refine ⟨fun x y s => ?_, fun w hN => ⟨fun hI => decode_family5 hI hN, fun hI => decode_family9 hI hN⟩⟩
  exact ⟨decodeInvertsEncode (.skipEqReg x y) rfl, decodeInvertsEncode (.skipNeReg x y) rfl,
    s.skipIf_next Iff.rfl, s.skipIf_next not_not.symm⟩

/-! ### The jump with offset (R127) -/

/-- The sum of a register and an address never wraps: it is at most 0xFF + 0xFFF. -/
theorem toNat_add_zextAddr (b : Byte) (nnn : Addr12) :
    (b.setWidth 16 + zextAddr nnn).toNat = b.toNat + nnn.toNat := by
  have hb : (b.setWidth 16).toNat = b.toNat := BitVec.toNat_setWidth_of_le (by decide)
  rw [BitVec.toNat_add_of_lt, hb, zextAddr_toNat]
  rw [hb, zextAddr_toNat]
  omega

theorem jumpBase_of_legacy {cfg : Compat} (h : cfg.jumpOffsetLegacy = true) (x : Reg) : jumpBase cfg x = 0 := if_pos h

theorem jumpBase_of_modern {cfg : Compat} (h : cfg.jumpOffsetLegacy = false) (x : Reg) : jumpBase cfg x = x :=
  if_neg (by simp [h])

/-- Settles O16: `x` is the field that the word carries, and the exact sum is taken over the base of the mode. -/
theorem jumpOffsetAddsSelectedRegister : Obligations.JumpOffsetAddsSelectedRegister := by
  intro x nnn s hx
  have hwf : x = topNibble nnn := Fin.ext (hx.trans (topNibble_val nnn).symm)
  refine ⟨decodeInvertsEncode (.jumpOffset x nnn) (wf_jumpOffset_iff.mpr hwf), _, rfl, fun h => ?_, fun h => ?_, rfl⟩
  · rw [State.setPc_pc, toNat_add_zextAddr, jumpBase_of_legacy h]
  · rw [State.setPc_pc, toNat_add_zextAddr, jumpBase_of_modern h]

end Sys2Proof.Machine
end

section
/-! PROOFS. The register ALU, one instruction each: the encoding, the result, VF and the frame
(spec 42_register_alu.md R140-R153). -/

namespace Sys2Proof.Machine

/-! ### Instructions that write one register (R141-R146, R152) -/

/-- A write of one register, told by a property `P` of the byte written. -/
theorem State.setReg_next (s : State) (x : Reg) {b : Byte} (P : Byte → Prop) (hb : P b) :
    ∃ t, Host.Outcome.next (φ := Fault) (ρ := Refusal) (s.setReg x b) = .next t ∧ P (t.reg x) ∧
      (∀ r, r ≠ x → t.reg r = s.reg r) ∧ t = { s with v := t.v } :=
  ⟨s.setReg x b, rfl, (s.reg_setReg_same x b).symm ▸ hb, fun _ hr => s.reg_setReg_ne b hr, rfl⟩

/-- The byte `b` holds at each bit what `op` makes of the same bit of `a` and of `c`. -/
def CombinesBits (op : Bool → Bool → Bool) (a c b : Byte) : Prop :=
  ∀ k, k < 8 → b.getLsbD k = op (a.getLsbD k) (c.getLsbD k)

theorem combinesBits_or (a c : Byte) : CombinesBits or a c (a ||| c) := fun _ _ => BitVec.getLsbD_or

theorem combinesBits_and (a c : Byte) : CombinesBits and a c (a &&& c) := fun _ _ => BitVec.getLsbD_and

theorem combinesBits_xor (a c : Byte) : CombinesBits xor a c (a ^^^ c) := fun _ _ => BitVec.getLsbD_xor

/-- Settles O17: each of the three writes Vx alone, with the immediate, the sum or Vy. -/
theorem loadAddImmediateAndCopy : Obligations.LoadAddImmediateAndCopy := by
  intro x y nn s
  exact ⟨decodeInvertsEncode (.loadImm x nn) rfl, decodeInvertsEncode (.addImm x nn) rfl,
    decodeInvertsEncode (.copyReg x y) rfl, s.setReg_next x (· = nn) rfl,
    s.setReg_next x (·.toNat = ((s.reg x).toNat + nn.toNat) % 256) (BitVec.toNat_add _ _),
    s.setReg_next x (· = s.reg y) rfl⟩

/-- Settles O18: each of the three writes Vx alone, with the bits of the old Vx and of Vy combined. -/
theorem logicIsBitwise : Obligations.LogicIsBitwise := by
  intro x y s
  exact ⟨decodeInvertsEncode (.orReg x y) rfl, decodeInvertsEncode (.andReg x y) rfl,
    decodeInvertsEncode (.xorReg x y) rfl,
    s.setReg_next x (CombinesBits or (s.reg x) (s.reg y)) (combinesBits_or _ _),
    s.setReg_next x (CombinesBits and (s.reg x) (s.reg y)) (combinesBits_and _ _),
    s.setReg_next x (CombinesBits xor (s.reg x) (s.reg y)) (combinesBits_xor _ _)⟩

/-- Settles O22: CXNN writes Vx alone, with the bits of nn and of the sampled random byte combined. -/
theorem randomIsMasked : Obligations.RandomIsMasked := by
  intro x nn s
  exact ⟨decodeInvertsEncode (.random x nn) rfl,
    s.setReg_next x (CombinesBits and nn s.inputs.rnd) (combinesBits_and _ _)⟩

/-! ### Reading a register after a write of a result and a flag (R140) -/

section
variable (s : State) {x : Reg} (res f : Byte)

/-- The flag is written last, so VF holds it for `x` = 15 too. -/
theorem State.reg_setResultAndFlag_flag (x : Reg) : (s.setResultAndFlag x res f).reg 15 = f := by
  rw [State.reg_setResultAndFlag, if_pos rfl]

theorem State.reg_setResultAndFlag_result (hx : x ≠ 15) : (s.setResultAndFlag x res f).reg x = res := by
  rw [State.reg_setResultAndFlag, if_neg hx, if_pos rfl]

theorem State.reg_setResultAndFlag_ne {r : Reg} (hx : r ≠ x) (hf : r ≠ 15) :
    (s.setResultAndFlag x res f).reg r = s.reg r := by
  rw [State.reg_setResultAndFlag, if_neg hf, if_neg hx]

end

/-! ### The flags as numbers (R147-R151) -/

theorem flag_true {c : Bool} (h : c = true) : flag c = 1 := if_pos h

theorem flag_false {c : Bool} (h : c = false) : flag c = 0 := if_neg (by simp [h])

theorem flag_zero_or_one (c : Bool) : flag c = 0 ∨ flag c = 1 := by
  cases c with
  | false => exact .inl rfl
  | true => exact .inr rfl

theorem toNat_flag (c : Bool) : (flag c).toNat = c.toNat := by cases c <;> rfl

theorem carryFlag_of_lt {a b : Byte} (h : 255 < a.toNat + b.toNat) : carryFlag a b = 1 := flag_true (decide_eq_true h)

theorem carryFlag_of_le {a b : Byte} (h : a.toNat + b.toNat ≤ 255) : carryFlag a b = 0 :=
  flag_false (decide_eq_false (Nat.not_lt.mpr h))

theorem notBorrowFlag_of_lt {a b : Byte} (h : a.toNat < b.toNat) : notBorrowFlag a b = 0 :=
  flag_false (decide_eq_false (not_not.mpr h))

theorem notBorrowFlag_of_le {a b : Byte} (h : b.toNat ≤ a.toNat) : notBorrowFlag a b = 1 :=
  flag_true (decide_eq_true (Nat.not_lt.mpr h))

theorem toNat_lowBitFlag (b : Byte) : (lowBitFlag b).toNat = b.toNat % 2 := by
  rw [lowBitFlag, toNat_flag, BitVec.getLsbD, Nat.toNat_testBit, pow_zero, Nat.div_one]

theorem toNat_highBitFlag (b : Byte) : (highBitFlag b).toNat = b.toNat / 128 := by
  have hlt : b.toNat / 2 ^ 7 < 2 := by omega
  rw [highBitFlag, toNat_flag, BitVec.getLsbD, Nat.toNat_testBit, Nat.mod_eq_of_lt hlt]
  rfl

/-! ### The flag instructions (R147-R151) -/

/-- Settles O19: the result is the sum of the old operands, and the flag is their carry. -/
theorem addSetsCarry : Obligations.AddSetsCarry := by
  intro x y s
  refine ⟨decodeInvertsEncode (.addReg x y) rfl, _, rfl, fun hx => ?_, fun h => ?_, fun h => ?_,
    fun r hr hf => s.reg_setResultAndFlag_ne _ _ hr hf, rfl⟩
  · rw [s.reg_setResultAndFlag_result _ _ hx, BitVec.toNat_add]
  · rw [s.reg_setResultAndFlag_flag, carryFlag_of_lt h]
  · rw [s.reg_setResultAndFlag_flag, carryFlag_of_le h]

/-- The difference modulo 256, over the exact integers. -/
theorem toNat_sub_eq_emod (a b : Byte) : ((a - b).toNat : Int) = (a.toNat - b.toNat : Int) % 256 := by
  rw [BitVec.toNat_sub]
  omega

/-- A subtraction `a - b` into Vx with its flag: 8XY5 and 8XY7 are this with the operands in either order. -/
theorem State.subtract_next (s : State) (x : Reg) (a b : Byte) :
    ∃ t, Host.Outcome.next (φ := Fault) (ρ := Refusal) (s.setResultAndFlag x (a - b) (notBorrowFlag a b)) = .next t ∧
      (x ≠ 15 → ((t.reg x).toNat : Int) = (a.toNat - b.toNat : Int) % 256) ∧
      (a.toNat < b.toNat → t.reg 15 = 0) ∧ (b.toNat ≤ a.toNat → t.reg 15 = 1) ∧
      (∀ r, r ≠ x → r ≠ 15 → t.reg r = s.reg r) ∧ t = { s with v := t.v } := by
  refine ⟨_, rfl, fun hx => ?_, fun h => ?_, fun h => ?_, fun r hr hf => s.reg_setResultAndFlag_ne _ _ hr hf, rfl⟩
  · rw [s.reg_setResultAndFlag_result _ _ hx, toNat_sub_eq_emod]
  · rw [s.reg_setResultAndFlag_flag, notBorrowFlag_of_lt h]
  · rw [s.reg_setResultAndFlag_flag, notBorrowFlag_of_le h]

/-- Settles O20: both instructions are one subtraction, with the operands exchanged. -/
theorem subtractSetsNotBorrow : Obligations.SubtractSetsNotBorrow := by
  intro x y s
  exact ⟨decodeInvertsEncode (.subReg x y) rfl, decodeInvertsEncode (.revSubReg x y) rfl,
    s.subtract_next x (s.reg x) (s.reg y), s.subtract_next x (s.reg y) (s.reg x)⟩

/-- The register `z` that the configuration selects holds the source of a shift. -/
theorem shiftSource_eq {s : State} {x y z : Reg} (hx : s.cfg.shiftVxInPlace = true → z = x)
    (hy : s.cfg.shiftVxInPlace = false → z = y) : shiftSource s x y = s.reg z := by
  rw [shiftSource]
  split
  case isTrue h => rw [hx h]
  case isFalse h => rw [hy (Bool.eq_false_of_not_eq_true h)]

/-- Settles O21: with the source named, a shift halves or doubles it, and the flag is the bit that this drops. -/
theorem shiftsMoveOneBitIntoVF : Obligations.ShiftsMoveOneBitIntoVF := by
  intro x y z s hx hy
  have hsrc : shiftSource s x y = s.reg z := shiftSource_eq hx hy
  refine ⟨⟨_, rfl, fun hne => ?_, ?_, fun r hr hf => s.reg_setResultAndFlag_ne _ _ hr hf, rfl⟩,
    ⟨_, rfl, fun hne => ?_, ?_, fun r hr hf => s.reg_setResultAndFlag_ne _ _ hr hf, rfl⟩⟩
  · rw [s.reg_setResultAndFlag_result _ _ hne, hsrc, BitVec.toNat_ushiftRight, Nat.shiftRight_one]
  · rw [s.reg_setResultAndFlag_flag, hsrc, toNat_lowBitFlag]
  · rw [s.reg_setResultAndFlag_result _ _ hne, hsrc, BitVec.toNat_shiftLeft, Nat.shiftLeft_eq, pow_one, mul_comm]
  · rw [s.reg_setResultAndFlag_flag, hsrc, toNat_highBitFlag]

/-- A flag instruction writes a result into Vx and then a condition into VF. -/
theorem exec_flagInstr {x y : Reg} {i : Instr}
    (hi : i ∈ [Instr.addReg x y, .subReg x y, .shiftRight x y, .revSubReg x y, .shiftLeft x y]) (s : State) :
    ∃ res c, exec i s = .next (s.setResultAndFlag x res (flag c)) := by
  simp only [List.mem_cons, List.not_mem_nil, or_false] at hi
  obtain rfl | rfl | rfl | rfl | rfl := hi <;> exact ⟨_, _, rfl⟩

/-- Settles O23: the condition is written into VF after the result, so VF holds it even when Vx is VF. -/
theorem flagIsZeroOrOne : Obligations.FlagIsZeroOrOne := by
  intro x y s t i hi h
  obtain ⟨res, c, hexec⟩ := exec_flagInstr hi s
  obtain rfl := Host.Outcome.next.inj (hexec.symm.trans h)
  rw [s.reg_setResultAndFlag_flag]
  exact flag_zero_or_one c

end Sys2Proof.Machine
end

section
/-! PROOFS. The Index register and the memory transfers, one instruction each: the encoding, the effect with its frame, and
the fault (spec 43_index_memory.md R160-R165). -/

namespace Sys2Proof.Machine

open Claim

/-! ### Writing I (R160-R162) -/

theorem toNat_glyphAddress (cfg : Compat) (digit : Byte) :
    (glyphAddress cfg digit).toNat = (cfg.fontStart.toNat + 5 * digit.toNat) % 65536 := by
  unfold glyphAddress
  bv_omega

/-- Settles O24: each of the two writes I alone, with the zero-extended address or the address of the glyph. -/
theorem indexLoadsAddressOrGlyph : Obligations.IndexLoadsAddressOrGlyph :=
  ⟨fun nnn _ => ⟨decodeInvertsEncode (.loadIndex nnn) rfl, _, rfl, zextAddr_toNat nnn, rfl⟩,
    fun x s => ⟨decodeInvertsEncode (.glyphAddr x) rfl, _, rfl, toNat_glyphAddress s.cfg (s.reg x), rfl⟩⟩

theorem toNat_add_setWidth (index : Word) (b : Byte) :
    (index + b.setWidth 16).toNat = (index.toNat + b.toNat) % 65536 := by
  bv_omega

theorem indexCarryFlag_of_le {index : Word} {b : Byte} (h : 0x1000 ≤ index.toNat + b.toNat) :
    indexCarryFlag index b = 1 := flag_true (decide_eq_true h)

theorem indexCarryFlag_of_lt {index : Word} {b : Byte} (h : index.toNat + b.toNat < 0x1000) :
    indexCarryFlag index b = 0 := flag_false (decide_eq_false (Nat.not_le.mpr h))

/-- Settles O25: in carry mode VF is the one register written, with the flag of the old operands; otherwise none is. -/
theorem addIndexWrapsAndFlags : Obligations.AddIndexWrapsAndFlags := by
  intro x s
  have hsum := toNat_add_setWidth s.index (s.reg x)
  cases hc : s.cfg.indexAddCarry with
  | false =>
    exact ⟨_, execAddIndex_plain x s hc, hsum, fun _ => rfl, nofun, nofun, fun _ _ => rfl, rfl⟩
  | true =>
    refine ⟨_, execAddIndex_carry x s hc, hsum, nofun, fun _ h => ?_, fun _ h => ?_, fun r hr => ?_, rfl⟩
    · rw [State.reg_setReg_same, indexCarryFlag_of_le h]
    · rw [State.reg_setReg_same, indexCarryFlag_of_lt h]
    · exact State.reg_setReg_ne _ _ hr

/-! ### What a checked write leaves in memory (R163, R164) -/

section
variable {m m' : Memory} {a : Nat} {bs : List Byte}

/-- Every byte after a checked write that succeeded, so that its range was in the bank. -/
theorem byteAt_storeBytes (hm : m.wf) (h : storeBytes m a bs = .ok m') (c : Nat) :
    m'.byteAt c = if hc : a ≤ c ∧ c < a + bs.length then bs[c - a]'(by omega) else m.byteAt c := by
  by_cases hr : bs.length = 0 ∨ a + bs.length ≤ 4096
  · obtain ⟨n, hn, -, hb⟩ := storeBytes_ok hm hr
    obtain rfl := Except.ok.inj (hn.symm.trans h)
    exact hb c
  · rw [storeBytes_error (by omega) (by omega)] at h
    cases h

theorem byteAt_storeBytes_inside (hm : m.wf) (h : storeBytes m a bs = .ok m') (k : Nat) (hk : k < bs.length) :
    m'.byteAt (a + k) = bs[k] := by
  simp [byteAt_storeBytes hm h, hk]

theorem memoryOutside_storeBytes {s : State} (hm : s.mem.wf) (h : storeBytes s.mem a bs = .ok m') :
    memoryOutside s (s.setMem m') a bs.length :=
  fun c hc => (byteAt_storeBytes hm h c).trans (dif_neg (by omega))

end

/-! ### The decimal digits (R163) -/

/-- Settles O26: the three digits are one checked write, which stores them all or fails at the first address outside. -/
theorem storeDecimalWritesThreeDigits : Obligations.StoreDecimalWritesThreeDigits := by
  intro x s hm
  refine ⟨decodeInvertsEncode (.storeDecimal x) rfl, fun hr => ?_, execStoreDecimal_fault x s⟩
  obtain ⟨m, hst, hexec⟩ := execStoreDecimal_next x s hr
  have hdigit := byteAt_storeBytes_inside hm hst
  have hundreds : m.byteAt s.index.toNat = s.reg x / 100 := hdigit 0 (by simp)
  have htens : m.byteAt (s.index.toNat + 1) = s.reg x / 10 % 10 := hdigit 1 (by simp)
  have hunits : m.byteAt (s.index.toNat + 2) = s.reg x % 10 := hdigit 2 (by simp)
  refine ⟨_, hexec, ?_, ?_, ?_, memoryOutside_storeBytes hm hst, storeBytes_wf hm hst, rfl⟩
  · simp [hundreds]
  · simp [htens]
  · simp [hunits]

/-! ### I after a transfer of registers (R164, R165) -/

section
variable {s : State} {x : Reg}

/-- A transfer inside the bank ends at most at 4096, so I does not wrap. -/
theorem toNat_indexAfterTransfer_legacy (h : s.cfg.registerSaveLegacy = true) (hr : s.index.toNat + x.val < 4096) :
    (indexAfterTransfer s x).toNat = s.index.toNat + x.val + 1 := by
  rw [indexAfterTransfer, if_pos h]
  bv_omega

theorem indexAfterTransfer_modern (h : s.cfg.registerSaveLegacy = false) : indexAfterTransfer s x = s.index :=
  if_neg (by simp [h])

end

/-! ### The register transfers (R164, R165) -/

/-- Settles O27: the registers are one checked write, byte k of it V[k]. -/
theorem storeRegistersWritesRange : Obligations.StoreRegistersWritesRange := by
  intro x s hm
  refine ⟨decodeInvertsEncode (.storeRegs x) rfl, fun hr => ?_, fun hr => execStoreRegs_fault x s (Nat.lt_succ_of_le hr)⟩
  obtain ⟨m, hst, hexec⟩ := execStoreRegs_next x s hr
  refine ⟨_, hexec, fun r hrx => ?_, ?_, fun h => toNat_indexAfterTransfer_legacy h hr, indexAfterTransfer_modern,
    storeBytes_wf hm hst, rfl⟩
  · have hk : r.val < (regRange s x).length := by
      rw [length_regRange]
      exact Nat.lt_succ_of_le hrx
    exact (byteAt_storeBytes_inside hm hst r.val hk).trans (regRange_getElem s x r.val hk)
  · have hout := memoryOutside_storeBytes hm hst
    rwa [length_regRange] at hout

section
variable (v : Vector Byte 16) {bs : List Byte} {r : Reg}

/-- Loading from V0 on: the registers that have a byte hold it. -/
theorem get_regsWith_inside (h : r.val < bs.length) : (regsWith v 0 bs).get r = bs[r.val] := by
  rw [Vector.get_eq_getElem, regsWith_getElem, dif_pos (by omega)]
  rfl

/-- Loading from V0 on: the registers past the bytes stay. -/
theorem get_regsWith_outside (h : bs.length ≤ r.val) : (regsWith v 0 bs).get r = v.get r := by
  rw [Vector.get_eq_getElem, regsWith_getElem, dif_neg (by omega)]
  rfl

end

/-- Settles O28: the bytes are one checked read, whose byte k goes to V[k], and there are x + 1 of them. -/
theorem loadRegistersReadsRange : Obligations.LoadRegistersReadsRange := by
  intro x s
  refine ⟨decodeInvertsEncode (.loadRegs x) rfl, fun hr => ?_, fun hr => execLoadRegs_fault x s (Nat.lt_succ_of_le hr)⟩
  refine ⟨_, execLoadRegs_next x s hr, fun r hrx => ?_, fun r hrx => ?_, fun h => toNat_indexAfterTransfer_legacy h hr,
    indexAfterTransfer_modern, rfl⟩
  · exact (get_regsWith_inside s.v (by simpa using Nat.lt_succ_of_le hrx)).trans (by simp)
  · exact get_regsWith_outside s.v (by simpa using hrx)

/-- Settles O29: the load reads the addresses of the store, and the store wrote the registers there. -/
theorem loadAfterStoreRestoresRegisters : Obligations.LoadAfterStoreRestoresRegisters := by
  intro x s u hm hr
  obtain ⟨-, hstore, -⟩ := storeRegistersWritesRange x s hm
  obtain ⟨t, hexec, hstored, -⟩ := hstore hr
  refine ⟨t, hexec, fun hmem hindex => ?_⟩
  obtain ⟨-, hload, -⟩ := loadRegistersReadsRange x u
  obtain ⟨w, hexec', hloaded, -⟩ := hload (hindex.symm ▸ hr)
  exact ⟨w, hexec', fun r hrx => by rw [hloaded r hrx, hmem, hindex, hstored r hrx]⟩

end Sys2Proof.Machine
end

section
/-! PROOFS. The framebuffer instructions: the mask of a sprite byte, 00E0, and DXYN pixel by pixel
(spec 44_framebuffer_sprite.md R181-R190). -/

namespace Sys2Proof.Machine

open Claim

/-! ### The mask of a sprite byte (R183) -/

/-- Settles O31: the formulas are the mask's two branches, and the pixels are its bits column by column. -/
theorem spriteMaskPlacesByte : Obligations.SpriteMaskPlacesByte := by
  intro x0 b hx
  refine ⟨fun h => if_pos h, fun h => if_neg (Nat.not_lt.mpr h), fun j hj hcol => ?_, fun c hc hout => ?_⟩
  · have hin : x0 ≤ x0 + j ∧ x0 + j < x0 + 8 := by omega
    rw [spriteMask_getLsbD b hx (by omega), decide_eq_true hin, Bool.true_and, Nat.add_sub_cancel_left]
  · have hnot : ¬ (x0 ≤ c ∧ c < x0 + 8) := by omega
    rw [spriteMask_getLsbD b hx hc, decide_eq_false hnot, Bool.false_and]

/-! ### 00E0 (R185, R186) -/

theorem clearedFb_get (r : Fin 32) : clearedFb.get r = 0 := by
  rw [Vector.get_eq_getElem, clearedFb, Vector.getElem_replicate]

theorem pixel_clearedFb (c r : Nat) : pixel clearedFb c r = false := by
  unfold pixel
  split
  · rw [clearedFb, Vector.getElem_replicate, BitVec.ofNat_eq_ofNat, BitVec.getLsbD_zero, Bool.and_false]
  · rfl

/-- Settles O30: the framebuffer alone is written, with the cleared one. -/
theorem clearScreenTurnsPixelsOff : Obligations.ClearScreenTurnsPixelsOff :=
  ⟨decodeInvertsEncode .clearScreen rfl, fun _ => ⟨_, rfl, clearedFb_get, pixel_clearedFb, rfl⟩⟩

/-! ### DXYN (R187, R189, R190) -/

/-- Drawing the `n` bytes in memory from `a` on inverts the pixels of that sprite. -/
theorem pixel_drawRows_byteAt (s : State) {x0 c r : Nat} (a y0 n : Nat) (hx : x0 < 64) (hc : c < 64) (hr : r < 32) :
    pixel (drawRows s.fb x0 y0 ((List.range n).map fun k => s.mem.byteAt (a + k))) c r =
      (pixel s.fb c r ^^ spriteBit s a x0 y0 n c r) := by
  rw [pixel_drawRows s.fb y0 r _ hx hc hr, spriteBit]
  by_cases hrow : y0 ≤ r ∧ r < y0 + n
  · simp [hrow]
  · have hnot : ¬ (y0 ≤ r ∧ r < y0 + n ∧ x0 ≤ c ∧ c < x0 + 8) := fun ⟨hle, hlt, _⟩ => hrow ⟨hle, hlt⟩
    simp [hrow, hnot]

/-- Settles O32: the bytes are one checked read, which gives them all before the first pixel is drawn, or fails. -/
theorem drawInvertsSpritePixels : Obligations.DrawInvertsSpritePixels := by
  intro x y n s
  refine ⟨fun hread => ⟨_, execDraw_next x y n s hread, fun c r hc hr => ?_, rfl⟩, execDraw_fault x y n s⟩
  exact pixel_drawRows_byteAt s s.index.toNat (startRow (s.reg y)) n.val (startColumn_lt (s.reg x)) hc hr

/-- Drawing is an XOR, so drawing the same bytes at the same place again undoes it (R184). -/
theorem drawRows_drawRows (fb : Vector FbRow 32) {x0 : Nat} (y : Nat) (bs : List Byte) (hx : x0 < 64) :
    drawRows (drawRows fb x0 y bs) x0 y bs = fb := by
  refine fb_ext fun c r hc hr => ?_
  rw [pixel_drawRows _ y r bs hx hc hr, pixel_drawRows fb y r bs hx hc hr, Bool.xor_assoc, Bool.xor_self, Bool.xor_false]

/-- Settles O33: the first draw changes the framebuffer alone, so the second draws the same bytes at the same place. -/
theorem drawTwiceRestoresState : Obligations.DrawTwiceRestoresState := by
  intro x y n s hread
  refine ⟨_, execDraw_next x y n s hread, (execDraw_next x y n _ ?_).trans ?_⟩
  · exact hread
  · exact congrArg (Host.Outcome.next ∘ s.setFb) (drawRows_drawRows s.fb _ _ (startColumn_lt (s.reg x)))

theorem bounds_of_spriteBit {s : State} {a x0 y0 n c r : Nat} (h : spriteBit s a x0 y0 n c r = true) :
    y0 ≤ r ∧ r < y0 + n ∧ x0 ≤ c ∧ c < x0 + 8 := of_decide_eq_true (Bool.and_eq_true_iff.1 h).1

theorem pixel_outside_surface (fb : Vector FbRow 32) {c r : Nat} (h : ¬ (c < 64 ∧ r < 32)) : pixel fb c r = false := by
  unfold pixel
  split
  case isTrue hr => rw [decide_eq_false fun hc => h ⟨hc, hr⟩, Bool.false_and]
  case isFalse => rfl

theorem surface_of_pixel_ne {f g : Vector FbRow 32} {c r : Nat} (h : pixel f c r ≠ pixel g c r) : c < 64 ∧ r < 32 := by
  by_contra hout
  exact h (by rw [pixel_outside_surface f hout, pixel_outside_surface g hout])

/-- Settles O34: a pixel that changes is on the surface and is one of the sprite's. -/
theorem drawStaysInItsRectangle : Obligations.DrawStaysInItsRectangle := by
  intro x y n s t c r h hne
  obtain ⟨hc, hr⟩ := surface_of_pixel_ne hne
  obtain ⟨hdraw, hfault⟩ := drawInvertsSpritePixels x y n s
  by_cases hread : n.val = 0 ∨ s.index.toNat + n.val ≤ 4096
  · obtain ⟨u, hexec, hpix, -⟩ := hdraw hread
    obtain rfl := Host.Outcome.next.inj (hexec.symm.trans h)
    have hbit := Bool.xor_iff_ne.2 hne
    rw [hpix c r hc hr, Bool.xor_right_comm, Bool.xor_self, Bool.false_xor] at hbit
    obtain ⟨hrow, hrow', hcol, hcol'⟩ := bounds_of_spriteBit hbit
    exact ⟨hrow, lt_min hrow' hr, hcol, lt_min hcol' hc⟩
  · obtain rfl := Host.Outcome.next.inj ((hfault (by omega) (by omega)).symm.trans h)
    exact absurd rfl hne

end Sys2Proof.Machine
end

section
/-! PROOFS. The timers and the audio output, and the key instructions (spec 45_timer_input.md R200-R210). -/

namespace Sys2Proof.Machine

/-! ### The timer instructions (R202-R204) -/

/-- Settles O35: FX07 writes Vx alone, and FX15 and FX18 each write their timer alone. -/
theorem timerInstructionsMoveBytes : Obligations.TimerInstructionsMoveBytes := by
  intro x s
  exact ⟨decodeInvertsEncode (.readDelay x) rfl, decodeInvertsEncode (.setDelay x) rfl,
    decodeInvertsEncode (.setSound x) rfl, s.setReg_next x (· = s.dt) rfl, rfl, rfl⟩

/-! ### TICK (R200) -/

/-- TICK's update of a timer is a truncated subtraction. -/
theorem toNat_countDown (b : Byte) : (if b.toNat > 0 then b - 1 else b).toNat = b.toNat - 1 := by
  split
  · exact BitVec.toNat_sub_of_le (BitVec.le_def.mpr ‹0 < b.toNat›)
  · omega

theorem opTick_timers {s t : State} (h : opTick s = .next t) :
    t.dt.toNat = s.dt.toNat - 1 ∧ t.st.toNat = s.st.toNat - 1 := by
  obtain ⟨-, rfl⟩ := State.accepted_of_next h
  exact ⟨toNat_countDown s.dt, toNat_countDown s.st⟩

theorem opTick_next_iff (s : State) : (∃ t, opTick s = .next t) ↔ s.status ≠ .faulted :=
  (s.exists_next_iff_accepts _ .tick).trans s.accepts_tick

/-- Settles O36: TICK answers exactly when not FAULTED, and then it writes the two timers only, each counted down. -/
theorem tickCountsDown : Obligations.TickCountsDown := by
  intro s
  constructor
  · intro hs
    obtain ⟨t, h⟩ := (opTick_next_iff s).mpr hs
    obtain ⟨hdt, hst⟩ := opTick_timers h
    obtain ⟨d, b, rfl⟩ := opTick_cases h
    exact ⟨_, h, hdt, hst, rfl⟩
  · intro hs t h
    exact (opTick_next_iff s).mp ⟨t, h⟩ hs

/-! ### The audio output (R205) -/

theorem State.audioActive_iff (s : State) : s.audioActive = true ↔ s.st ≠ 0 := bne_iff_ne

theorem State.audioActive_eq_false_iff (s : State) : s.audioActive = false ↔ s.st = 0 := bne_eq_false_iff_eq

theorem audioEvent_start {s t : State} (hs : s.st = 0) (ht : t.st ≠ 0) : audioEvent s t = some .start := by
  rw [audioEvent, s.audioActive_eq_false_iff.mpr hs, t.audioActive_iff.mpr ht]

theorem audioEvent_eq_stop_iff (s t : State) : audioEvent s t = some .stop ↔ s.st ≠ 0 ∧ t.st = 0 := by
  rw [← s.audioActive_iff, ← t.audioActive_eq_false_iff, audioEvent]
  cases s.audioActive <;> cases t.audioActive <;> decide

/-- Settles O37: FX18 makes ST the register it reads, and TICK brings ST to 0 from 1 alone. -/
theorem audioFollowsSoundTimer : Obligations.AudioFollowsSoundTimer := by
  intro s
  refine ⟨s.audioActive_iff, fun x t h hs hx => ?_, fun t h => ?_⟩
  · obtain rfl := Host.Outcome.next.inj h
    exact audioEvent_start hs hx
  · obtain ⟨-, hst⟩ := opTick_timers h
    rw [audioEvent_eq_stop_iff]
    bv_omega

/-! ### The key skips (R208, R209) -/

theorem keyNumber_of_val {b : Byte} {k : Key} (h : b.toNat = k.val) : keyNumber b = .ok k :=
  (keyNumber_ok (h ▸ k.isLt)).trans (congrArg Except.ok (Fin.ext h))

section
variable {x : Reg} {s : State} {k : Key}

theorem execSkipKeyHeld_key (h : (s.reg x).toNat = k.val) :
    execSkipKeyHeld x s = .next (if keyHeld s.inputs k = true then s.skip else s) := by
  rw [execSkipKeyHeld, keyNumber_of_val h, State.orRaise_ok]

/-- EXA1 is the conditional skip on the opposite condition. -/
theorem execSkipKeyNotHeld_key (h : (s.reg x).toNat = k.val) :
    execSkipKeyNotHeld x s = .next (if keyHeld s.inputs k = false then s.skip else s) := by
  rw [execSkipKeyNotHeld, keyNumber_of_val h, State.orRaise_ok]
  simp only [← Bool.not_eq_true, ite_not]

end

/-- Settles O38: below 16 both instructions are conditional skips, on opposite conditions, and from 16 on no key has
the number. -/
theorem skipTestsKey : Obligations.SkipTestsKey := by
  intro x s
  refine ⟨fun k hk => ⟨?_, ?_⟩, fun h => ⟨execSkipKeyHeld_fault x s h, execSkipKeyNotHeld_fault x s h⟩⟩
  · rw [exec, execSkipKeyHeld_key hk]
    exact s.skipIf_next Bool.eq_false_iff
  · rw [exec, execSkipKeyNotHeld_key hk]
    exact s.skipIf_next Bool.ne_false_iff.symm

/-! ### The key wait (R206, R210) -/

/-- A key number fits a register. -/
theorem toNat_ofNat_key (k : Key) : (BitVec.ofNat 8 k.val).toNat = k.val := by
  rw [BitVec.toNat_ofNat]
  omega

/-- With a key held PressedKey() answers, and its answer is held. -/
theorem exists_pressedKey {inp : Inputs} {k : Key} (h : keyHeld inp k = true) :
    ∃ j, pressedKey inp = some j ∧ keyHeld inp j = true := by
  cases hp : pressedKey inp with
  | some j => exact ⟨j, rfl, pressedKey_held hp⟩
  | none => simp [(pressedKey_eq_none inp).mp hp k] at h

/-- Settles O39: FX0A writes the number of the key that PressedKey() answers, and with no answer only pc. -/
theorem waitKeyTakesHeldKeyOrRetries : Obligations.WaitKeyTakesHeldKeyOrRetries := by
  intro x s
  refine ⟨decodeInvertsEncode (.waitKey x) rfl, fun k hk => ?_, fun hno => ?_⟩
  · obtain ⟨j, hj, hheld⟩ := exists_pressedKey hk
    have hreg : ((s.setReg x (BitVec.ofNat 8 j.val)).reg x).toNat = j.val := by
      rw [State.reg_setReg_same, toNat_ofNat_key]
    refine ⟨_, execWaitKey_held x s hj, ⟨j, hheld, hreg⟩, ?_, fun r hr => s.reg_setReg_ne _ hr, rfl⟩
    rintro rfl
    obtain rfl := Option.some.inj (hj.symm.trans (pressedKey_pick hk))
    exact hreg
  · exact execWaitKey_none x s ((pressedKey_eq_none s.inputs).mpr hno)

/-! ### No snapshot (R207) -/

/-- The inputs answer alike: the same random byte, the same held keys and the same pressed key. -/
structure InputsAlike (inp inp' : Inputs) : Prop where
  rnd : inp'.rnd = inp.rnd
  held : ∀ k, keyHeld inp' k = keyHeld inp k
  pressed : pressedKey inp' = pressedKey inp

/-- No key is held without a snapshot, nor with one in which every bit is 0. -/
theorem inputsAlike_noKeys {inp : Inputs} (h : inp.keys = none) : InputsAlike inp { inp with keys := some 0 } := by
  have hnone (k : Key) : keyHeld inp k = false := by rw [keyHeld, h]
  have hzero (k : Key) : keyHeld { inp with keys := some 0 } k = false := BitVec.getLsbD_zero
  exact ⟨rfl, fun k => (hzero k).trans (hnone k).symm,
    ((pressedKey_eq_none _).mpr hzero).trans ((pressedKey_eq_none _).mpr hnone).symm⟩

@[simp] theorem State.withInputs_inputs (s : State) (inp : Inputs) : (s.withInputs inp).inputs = inp := rfl

section
variable (x : Reg) {s : State} {inp : Inputs} (h : InputsAlike s.inputs inp)
include h

theorem execRandom_withInputs (nn : Byte) :
    ∃ t, execRandom x nn s = .next t ∧ execRandom x nn (s.withInputs inp) = .next (t.withInputs inp) := by
  refine ⟨_, rfl, ?_⟩
  rw [execRandom, randByte, State.withInputs_inputs, h.rnd]
  rfl

theorem execSkipKeyHeld_withInputs :
    ∃ t, execSkipKeyHeld x s = .next t ∧ execSkipKeyHeld x (s.withInputs inp) = .next (t.withInputs inp) := by
  refine ⟨_, rfl, congrArg Host.Outcome.next (s.orRaise_withInputs inp _ _ fun k => ?_)⟩
  rw [State.withInputs_inputs, h.held k]
  exact s.skipIf_withInputs inp _

theorem execSkipKeyNotHeld_withInputs :
    ∃ t, execSkipKeyNotHeld x s = .next t ∧ execSkipKeyNotHeld x (s.withInputs inp) = .next (t.withInputs inp) := by
  refine ⟨_, rfl, congrArg Host.Outcome.next (s.orRaise_withInputs inp _ _ fun k => ?_)⟩
  rw [State.withInputs_inputs, h.held k]
  simpa only [ite_not] using s.skipIf_withInputs inp (¬keyHeld s.inputs k = true)

theorem execWaitKey_withInputs :
    ∃ t, execWaitKey x s = .next t ∧ execWaitKey x (s.withInputs inp) = .next (t.withInputs inp) := by
  cases hk : pressedKey s.inputs with
  | some k => exact ⟨_, execWaitKey_held x s hk, execWaitKey_held x (s.withInputs inp) (h.pressed.trans hk)⟩
  | none => exact ⟨_, execWaitKey_none x s hk, execWaitKey_none x (s.withInputs inp) (h.pressed.trans hk)⟩

/-- No instruction tells apart inputs that answer alike. -/
theorem exec_withInputs_of_alike (i : Instr) :
    ∃ t, exec i s = .next t ∧ exec i (s.withInputs inp) = .next (t.withInputs inp) := by
  cases i with
  | random x nn => exact execRandom_withInputs x h nn
  | skipKeyHeld x => exact execSkipKeyHeld_withInputs x h
  | skipKeyNotHeld x => exact execSkipKeyNotHeld_withInputs x h
  | waitKey x => exact execWaitKey_withInputs x h
  | _ => exact exec_withInputs rfl s inp

end

/-- Settles O40: no snapshot and an empty one answer alike. -/
theorem noSnapshotIsNoKeyHeld : Obligations.NoSnapshotIsNoKeyHeld := by
  intro i s t hkeys h
  obtain ⟨u, hu, hinp⟩ := exec_withInputs_of_alike (inputsAlike_noKeys hkeys) i
  obtain rfl := Host.Outcome.next.inj (hu.symm.trans h)
  exact hinp

end Sys2Proof.Machine
end

section
/-! PROOFS. FAULTED and the ways in and out of it: what the operations answer there, and how the status moves in a step
(spec 60_exceptions.md R229, R232, 70_reset_and_hazards.md R254). -/

namespace Sys2Proof.Machine

/-! ### Operations in FAULTED (R232) -/

section
variable {s : State} (h : s.status = .faulted)
include h

/-- FAULTED accepts RESET and reading the outputs only. -/
theorem State.accepts_eq_false_of_faulted {op : Operation} (hr : op ≠ .reset) (ho : op ≠ .readOutputs) :
    s.accepts op = false := by
  cases op with
  | reset => exact absurd rfl hr
  | readOutputs => exact absurd rfl ho
  | _ => simp [State.accepts, h]

/-- An operation that FAULTED does not accept stops with the record, whatever it would have done. -/
theorem State.guarded_faulted (op : Operation) (hr : op ≠ .reset) (ho : op ≠ .readOutputs)
    (o : Host.Outcome State Fault Refusal) :
    (if s.accepts op then o else s.notAccepted op) = .fault (.terminal s.fault) := by
  rw [s.accepts_eq_false_of_faulted h hr ho, if_neg Bool.false_ne_true, State.notAccepted_faulted h]

theorem opFetch_faulted : opFetch s = .fault (.terminal s.fault) := s.guarded_faulted h .fetch nofun nofun _

theorem opExecute_faulted (inp : Inputs) : opExecute inp s = .fault (.terminal s.fault) :=
  s.guarded_faulted h .execute nofun nofun _

/-- A cycle stops at its first operation: the EXECUTE of a latched word, or else the FETCH. -/
theorem cycle_faulted (inp : Inputs) : cycle inp s = .fault (.terminal s.fault) := by
  by_cases hv : s.irValid = true
  · rw [cycle_latched inp hv, opExecute_faulted h]
  · rw [cycle, if_neg hv, opFetch_faulted h]

theorem perform_faulted {r : Request} (hr : ∀ cfg, r ≠ .reset cfg) (ho : r ≠ .readOutputs) :
    perform r s = .fault (.terminal s.fault) := by
  cases r with
  | reset cfg => exact absurd rfl (hr cfg)
  | readOutputs => exact absurd rfl ho
  | fetch => exact opFetch_faulted h
  | execute inp => exact opExecute_faulted h inp
  | loadFont bytes => exact s.guarded_faulted h .loadFont nofun nofun _
  | loadProgram bytes => exact s.guarded_faulted h .loadProgram nofun nofun _
  | tick => exact s.guarded_faulted h .tick nofun nofun _

end

/-- Settles O47: no guard but RESET's and the outputs' holds in FAULTED, and RESET goes to LOAD with no record. -/
theorem onlyResetLeavesFaulted : Obligations.OnlyResetLeavesFaulted := by
  intro s h
  refine ⟨fun hq => ?_, fun r hr ho => perform_faulted h hr ho, fun cfg hcfg => ⟨_, opReset_ok hcfg s, rfl, rfl⟩⟩
  rw [step_idle hq]
  exact cycle_faulted (s := s.countDraw) h _

/-! ### How the status moves (R37, R229) -/

/-- Where an operation other than RESET goes from status `a`: it keeps the status, or, outside FAULTED, it enters RUN or
takes a fault. -/
inductive StatusMove (a : Status) (t : State) : Prop where
  | keep (ht : t.status = a)
  | run (ha : a ≠ .faulted) (ht : t.status = .run)
  | fault (ha : a ≠ .faulted) (r : FaultRecord) (ht : t.status = .faulted) (hr : t.fault = some r)
      (hv : t.irValid = false)

namespace StatusMove

variable {a : Status} {s t : State}

theorem enterFault (ha : a ≠ .faulted) (u : State) (r : FaultRecord) : StatusMove a (u.enterFault r) :=
  .fault ha r rfl rfl rfl

/-- What moves from RUN moves from any status that can enter RUN. -/
theorem of_run (ha : a ≠ .faulted) (h : StatusMove .run t) : StatusMove a t := by
  cases h with
  | keep ht => exact .run ha ht
  | run _ ht => exact .run ha ht
  | fault _ r ht hr hv => exact .fault ha r ht hr hv

/-- FAULTED is kept. -/
theorem status_of_faulted (h : StatusMove .faulted t) : t.status = .faulted := by
  cases h with
  | keep ht => exact ht
  | run ha _ => exact absurd rfl ha
  | fault _ _ ht _ _ => exact ht

/-- FAULTED is entered with a record and without a latched word. -/
theorem record_of_entered (h : StatusMove a t) (ha : a ≠ .faulted) (hf : t.status = .faulted) :
    (∃ r, t.fault = some r) ∧ t.irValid = false := by
  cases h with
  | keep ht => exact absurd (ht.symm.trans hf) ha
  | run _ ht => cases ht.symm.trans hf
  | fault _ r _ hr hv => exact ⟨⟨r, hr⟩, hv⟩

/-- RUN does not go back to LOAD. -/
theorem status_ne_load_of_run (h : StatusMove .run t) : t.status ≠ .load := by
  intro hl
  cases h with
  | keep ht => cases ht.symm.trans hl
  | run _ ht => cases ht.symm.trans hl
  | fault _ _ ht _ _ => cases ht.symm.trans hl

end StatusMove

section
variable {s t : State}

theorem opFetch_statusMove (h : opFetch s = .next t) : StatusMove s.status t := by
  obtain ⟨hs, -, ⟨w, -, -, rfl⟩ | ⟨-, rfl⟩⟩ := opFetch_cases h
  · exact .run hs rfl
  · exact .enterFault hs _ _

theorem exec_statusMove {i : Instr} (hs : s.status ≠ .faulted) (h : exec i s = .next t) : StatusMove s.status t := by
  obtain ⟨-, hu⟩ | ⟨kind, info, -, rfl⟩ := exec_cases h
  · exact .keep hu.status
  · exact .enterFault hs _ _

theorem opExecute_statusMove {inp : Inputs} (h : opExecute inp s = .next t) : StatusMove s.status t := by
  obtain ⟨hs, -, hcases⟩ := opExecute_cases h
  have hne : s.status ≠ .faulted := by simp [hs]
  obtain ⟨i, -, he⟩ | rfl := hcases
  · exact exec_statusMove (s := s.beginExecute inp) hne he
  · exact .enterFault hne _ _

theorem Loaded.statusMove {bytes : List Byte} (hs : s.status = .load) (h : Loaded bytes s t) : StatusMove s.status t := by
  obtain ⟨a, m, -, rfl⟩ | ⟨r, rfl⟩ := h
  · exact .keep rfl
  · exact .enterFault (by simp [hs]) _ _

theorem cycle_statusMove {inp : Inputs} (h : cycle inp s = .next t) : StatusMove s.status t := by
  obtain he | ⟨hf, -⟩ | ⟨u, hf, he⟩ := cycle_cases h
  · exact opExecute_statusMove he
  · exact opFetch_statusMove hf
  · obtain ⟨hs, -⟩ := opFetch_cases hf
    obtain ⟨hu, -⟩ := opExecute_cases he
    exact (hu ▸ opExecute_statusMove he).of_run hs

theorem perform_statusMove {r : Request} (hr : ∀ cfg, r ≠ .reset cfg) (h : perform r s = .next t) :
    StatusMove s.status t := by
  cases r with
  | reset cfg => exact absurd rfl (hr cfg)
  | loadFont bytes =>
    obtain ⟨hs, hl⟩ := opLoadFont_cases h
    exact hl.statusMove hs
  | loadProgram bytes =>
    obtain ⟨hs, hl⟩ := opLoadProgram_cases h
    exact hl.statusMove hs
  | fetch => exact opFetch_statusMove h
  | execute inp => exact opExecute_statusMove h
  | tick =>
    obtain ⟨d, b, rfl⟩ := opTick_cases h
    exact .keep rfl
  | readOutputs =>
    obtain rfl := Host.Outcome.next.inj h
    exact .keep rfl

/-- A step performs a requested RESET, which ends in LOAD, or moves the status as the other operations do. -/
theorem step_reset_or_statusMove (h : step s = .next t) :
    (∃ cfg rest, s.requests = .reset cfg :: rest ∧ t.status = .load) ∨ StatusMove s.status t := by
  cases hq : s.requests with
  | nil =>
    rw [step_idle hq] at h
    exact .inr (cycle_statusMove (s := s.countDraw) h)
  | cons r rest =>
    rw [step_request hq] at h
    by_cases hr : ∃ cfg, r = .reset cfg
    · obtain ⟨cfg, rfl⟩ := hr
      obtain ⟨-, rfl⟩ := opReset_cases h
      exact .inl ⟨cfg, rest, rfl, rfl⟩
    · exact .inr (perform_statusMove (s := s.takeRequest rest) (fun cfg e => hr ⟨cfg, e⟩) h)

end

/-- Settles O54: RESET ends in LOAD; any other step keeps the status or, outside FAULTED, enters RUN or takes a fault. -/
theorem resetAloneReturnsToLoadAndFaultedHoldsRecord : Obligations.ResetAloneReturnsToLoadAndFaultedHoldsRecord := by
  intro s t h
  obtain ⟨cfg, rest, hq, ht⟩ | hm := step_reset_or_statusMove h
  · refine ⟨fun _ _ => ⟨cfg, rest, hq, ht⟩, fun _ hf => ?_, fun _ _ => ⟨cfg, rest, hq⟩⟩
    cases ht.symm.trans hf
  · refine ⟨fun hs hne => ?_, hm.record_of_entered, fun hs hl => ?_⟩
    · exact absurd (hs ▸ hm).status_of_faulted hne
    · exact absurd hl (hs ▸ hm).status_ne_load_of_run

end Sys2Proof.Machine
end

section
/-! PROOFS. LOAD_FONT and LOAD_PROGRAM: the copy with its frame, the fault of a wrong length, and the status they need
(spec 70_reset_and_hazards.md R251, R253). -/

namespace Sys2Proof.Machine

open Claim

section
variable {s : State} {bytes : List Byte}

/-! ### The shared copy -/

/-- A copy inside the bank writes its bytes, and nothing but them. -/
theorem copyIn_writes_bytes_only (hm : s.mem.wf) {a : Nat} (hr : a + bytes.length ≤ 4096) :
    (∀ k (h : k < bytes.length), (copyIn s a bytes).mem.byteAt (a + k) = bytes[k]) ∧
      memoryOutside s (copyIn s a bytes) a bytes.length ∧ (copyIn s a bytes).mem.wf ∧
      copyIn s a bytes = { s with mem := (copyIn s a bytes).mem } := by
  obtain ⟨m, hcopy, hwf, hbyte⟩ := copyIn_ok s hm hr
  rw [hcopy]
  refine ⟨fun k h => ?_, fun c hc => ?_, hwf, rfl⟩
  · simp [hbyte, h]
  · exact (hbyte c).trans (dif_neg (by omega))

/-! ### What an accepted load answers -/

theorem opLoadFont_ok (hs : s.status = .load) (h : bytes.length = 80) :
    opLoadFont bytes s = .next (copyIn s s.cfg.fontStart.toNat bytes) := by
  rw [opLoadFont, if_pos ((State.accepts_loadFont s).2 hs), if_neg (not_not_intro h)]

theorem opLoadFont_sizeInvalid (hs : s.status = .load) (h : bytes.length ≠ 80) :
    opLoadFont bytes s = .next (s.raiseLoad .fontSizeInvalid bytes.length) := by
  rw [opLoadFont, if_pos ((State.accepts_loadFont s).2 hs), if_pos h]

theorem opLoadProgram_ok (hs : s.status = .load) (h : bytes.length ≤ 3584) :
    opLoadProgram bytes s = .next (copyIn s 0x200 bytes) := by
  rw [opLoadProgram, if_pos ((State.accepts_loadProgram s).2 hs), if_neg (by omega)]

theorem opLoadProgram_tooLarge (hs : s.status = .load) (h : 3584 < bytes.length) :
    opLoadProgram bytes s = .next (s.raiseLoad .programTooLarge bytes.length) := by
  rw [opLoadProgram, if_pos ((State.accepts_loadProgram s).2 hs), if_pos (by omega)]

end

/-- Settles O50: a program of up to 3584 bytes from 0x200 stays inside the bank, and a next state needs status LOAD. -/
theorem loadProgramCopiesBytes : Obligations.LoadProgramCopiesBytes := by
  intro bytes s hm
  refine ⟨fun hs hlen => ?_, opLoadProgram_tooLarge, fun hs t h => hs (opLoadProgram_cases h).1⟩
  exact ⟨_, opLoadProgram_ok hs hlen, copyIn_writes_bytes_only hm (by omega)⟩

/-- Settles O49: a font_start that RESET accepts puts the 80 bytes below 0x200, inside the bank. -/
theorem loadFontCopiesEightyBytes : Obligations.LoadFontCopiesEightyBytes := by
  intro bytes s hs hm hstart
  refine ⟨fun hlen => ?_, opLoadFont_sizeInvalid hs⟩
  have hrange : s.cfg.fontStart.toNat + bytes.length ≤ 4096 := by omega
  obtain ⟨hin, hout, hwf, hframe⟩ := copyIn_writes_bytes_only hm hrange
  exact ⟨_, opLoadFont_ok hs hlen, hin, hlen ▸ hout, hwf, hframe⟩

end Sys2Proof.Machine
end
